-- ==== Sys2Proof/Word.lean ====
section
/-! DEFINITION. The bit-vector types of the block (spec/00_scope.md R9): bytes, 4-bit fields, 8-bit character codes and
16-bit wire words. Integer operands are mathematical integers (R74, D29) and stay `Int`. -/

namespace Sys2Proof

/-- `u8` of R9: an unsigned 8-bit value. -/
abbrev Byte := BitVec 8

/-- `u4` of R9: an unsigned 4-bit value (the intensity, R24; the command number, R72). -/
abbrev Nibble := BitVec 4

/-- A character: an 8-bit code (30_encoding.md R75, D3). -/
abbrev Char8 := BitVec 8

/-- One transaction seen as a 16-bit word (R53, R76, D23). -/
abbrev WireWord := BitVec 16

/-- A physical position or a checked logical index: 0..7 (`NUM_CHRS` = 8, R8, R32). -/
abbrev Pos := Fin 8

end Sys2Proof
end

