-- ==== Sys2Proof/Syntax.lean ====
section
/-! DEFINITION. The instructions (one constructor per row of spec/opcode_table.json), the command records and wire words
they are decoded from (30_encoding.md R70 to R77), and the source's call syntax (R85, R86). -/

namespace Sys2Proof

/-- One constructor per row of spec/opcode_table.json: the 12 commands of R72 (format CMD) with their typed operands, and
the 14 register writes of R80 (format WIRE16) with their value byte. -/
inductive Instr where
  | init                                                               -- R121
  | on                                                                 -- R122
  | off                                                                -- R123
  | getDecodeMode                                                      -- R125
  | setDecodeMode (value : Int)                                        -- R126
  | getIntensity                                                       -- R127
  | setIntensity (value : Int)                                         -- R128
  | getMirror                                                          -- R129
  | writeChrRaw (value index : Int)                                    -- R178
  | writeChrXlate (char : Char8) (index : Int) (dot strict : Bool)     -- R176
  | writeStr (string : List Char8) (start : Int) (strict : Bool)       -- R205
  | clear (start length : Int)                                         -- R206
  | wrNoop (v : Byte)                                                  -- R110
  | wrDigit0 (v : Byte)                                                -- R104
  | wrDigit1 (v : Byte)
  | wrDigit2 (v : Byte)
  | wrDigit3 (v : Byte)
  | wrDigit4 (v : Byte)
  | wrDigit5 (v : Byte)
  | wrDigit6 (v : Byte)
  | wrDigit7 (v : Byte)
  | wrDecodeMode (v : Byte)                                            -- R105
  | wrIntensity (v : Byte)                                             -- R106
  | wrScanLimit (v : Byte)                                             -- R107
  | wrShutdown (v : Byte)                                              -- R108
  | wrDisplayTest (v : Byte)                                           -- R109
deriving DecidableEq, Repr

/-- An operand of a command record as it arrives at the interface, before its type is checked (R72 to R74). A character
and the elements of a string arrive as numbers, so that "a character that is not 8 bits" (R73) can be written down. -/
inductive Operand where
  | int (value : Int)
  | char (code : Nat)
  | bool (value : Bool)
  | str (codes : List Nat)
deriving DecidableEq, Repr

/-- The operand types of R72. -/
inductive OperandType where
  | int
  | char
  | bool
  | str
deriving DecidableEq, Repr

/-- A command record `{op; operands}` (R72): the field `op` is 4 bits, the operands are typed fields in the order of R72. -/
structure CommandRecord where
  op : Nibble
  operands : List Operand
deriving DecidableEq, Repr

/-- What the decoder reads: a record on the command interface or a word on the wire interface (R70). -/
inductive Encoding where
  | command (r : CommandRecord)
  | wire (w : WireWord)
deriving DecidableEq, Repr

/-- What the decoder answers; a rejection has a name of its own. -/
inductive Decoded where
  /-- The encoding spells this instruction. -/
  | instr (i : Instr)
  /-- `op` 12..15 spells no command and raises IllegalCommand (R73, R83, R239). -/
  | illegalOp (op : Nibble)
  /-- The operands do not have the types of R72: refused at the interface (R73, D32). -/
  | mistyped
  /-- A wire word whose address no source names: 0x0D, 0x0E, 0x10..0xFF (R82). -/
  | unnamedRegister (a : Byte)
deriving DecidableEq, Repr

/-- The registers of the output space (R80, R81): 7 kinds, 14 addresses. -/
inductive Register where
  | noop
  | digit (p : Pos)
  | decodeMode
  | intensity
  | scanLimit
  | shutdown
  | displayTest
deriving DecidableEq, Repr

/-- A call in the source's syntax (R85), with its optional operands as they are given or left out (R86). -/
inductive Call where
  | init
  | on
  | off
  | decodeMode (value : Option Int)
  | intensity (value : Option Int)
  | mirror
  | writeChrRaw (value index : Int)
  | writeChrXlate (char : Char8) (index : Int) (dot strict : Option Bool)
  | writeStr (string : List Char8) (start : Option Int) (strict : Option Bool)
  | clear (start length : Int)
deriving DecidableEq, Repr

end Sys2Proof
end

