-- ==== Sys2Proof/WellFormed.lean ====
section
/-! DEFINITION. Well-formedness: of a command record (30_encoding.md R72, R73) and of an instruction (R80, R82). Every
check is a Bool; Sys2Proof/Tests/Slice0.lean shows an ill-formed term that each check refuses. -/

namespace Sys2Proof

/-- The operand record of a command number (R72); none for 12..15. -/
def signature (op : Nibble) : Option (List OperandType) :=
  match op.toNat with
  | 0 => some []
  | 1 => some []
  | 2 => some []
  | 3 => some []
  | 4 => some [.int]
  | 5 => some []
  | 6 => some [.int]
  | 7 => some []
  | 8 => some [.int, .int]
  | 9 => some [.char, .int, .bool, .bool]
  | 10 => some [.str, .int, .bool]
  | 11 => some [.int, .int]
  | _ => none

/-- An operand has a type of R72: a character is one 8-bit code, a string element is one character (R73, R75). -/
def Operand.hasType : Operand → OperandType → Bool
  | .int _, .int => true
  | .char c, .char => decide (c < 256)
  | .bool _, .bool => true
  | .str cs, .str => cs.all fun c => decide (c < 256)
  | _, _ => false

/-- Operands match a signature one by one. -/
def operandsMatch : List Operand → List OperandType → Bool
  | [], [] => true
  | o :: os, t :: ts => o.hasType t && operandsMatch os ts
  | _, _ => false

/-- A record is well formed: its `op` is 0..11 and its operands have the types of R72. -/
def CommandRecord.wellFormed (r : CommandRecord) : Bool :=
  match signature r.op with
  | some ts => operandsMatch r.operands ts
  | none => false

/-- "values the block writes" of R80: the values a register can be given by a command. The no-op register is never
written (R110); the others as R104 to R109 say. -/
def Register.admits : Register → Byte → Bool
  | .noop, _ => false
  | .digit _, _ => true
  | .decodeMode, _ => true
  | .intensity, v => decide (v ≤ 0x0F#8)
  | .scanLimit, v => decide (v = 0x07#8)
  | .shutdown, v => decide (v = 0x00#8 ∨ v = 0x01#8)
  | .displayTest, v => decide (v = 0x00#8)

/-- A wire instruction is well formed when the block can emit it (R80, R82). Every term of a command is well formed: its
operands are typed, and their ranges are the command rule's business, not the decoder's (R74). -/
def Instr.wellFormed : Instr → Bool
  | .init => true
  | .on => true
  | .off => true
  | .getDecodeMode => true
  | .setDecodeMode _ => true
  | .getIntensity => true
  | .setIntensity _ => true
  | .getMirror => true
  | .writeChrRaw _ _ => true
  | .writeChrXlate _ _ _ _ => true
  | .writeStr _ _ _ => true
  | .clear _ _ => true
  | .wrNoop v => Register.noop.admits v
  | .wrDigit0 v => (Register.digit 0).admits v
  | .wrDigit1 v => (Register.digit 1).admits v
  | .wrDigit2 v => (Register.digit 2).admits v
  | .wrDigit3 v => (Register.digit 3).admits v
  | .wrDigit4 v => (Register.digit 4).admits v
  | .wrDigit5 v => (Register.digit 5).admits v
  | .wrDigit6 v => (Register.digit 6).admits v
  | .wrDigit7 v => (Register.digit 7).admits v
  | .wrDecodeMode v => Register.decodeMode.admits v
  | .wrIntensity v => Register.intensity.admits v
  | .wrScanLimit v => Register.scanLimit.admits v
  | .wrShutdown v => Register.shutdown.admits v
  | .wrDisplayTest v => Register.displayTest.admits v

/-- The instruction is one of the 12 commands a host can issue (R71, R72); the others are transactions the block emits. -/
def Instr.isCommand : Instr → Bool
  | .init => true
  | .on => true
  | .off => true
  | .getDecodeMode => true
  | .setDecodeMode _ => true
  | .getIntensity => true
  | .setIntensity _ => true
  | .getMirror => true
  | .writeChrRaw _ _ => true
  | .writeChrXlate _ _ _ _ => true
  | .writeStr _ _ _ => true
  | .clear _ _ => true
  | .wrNoop _ => false
  | .wrDigit0 _ => false
  | .wrDigit1 _ => false
  | .wrDigit2 _ => false
  | .wrDigit3 _ => false
  | .wrDigit4 _ => false
  | .wrDigit5 _ => false
  | .wrDigit6 _ => false
  | .wrDigit7 _ => false
  | .wrDecodeMode _ => false
  | .wrIntensity _ => false
  | .wrScanLimit _ => false
  | .wrShutdown _ => false
  | .wrDisplayTest _ => false

end Sys2Proof
end

