-- ==== Sys2Proof/Decode.lean ====
section
/-! DEFINITION. Decoding and encoding (spec/30_encoding.md): command records (R72 to R75), wire words (R76 to R82), the
register address map (R80), and the call syntax with its defaults (R85, R86). Decoding is total and rejects by name. -/

namespace Sys2Proof

/-- The 8-bit code of a character operand, if it is one (R73, R75). -/
def char8? (c : Nat) : Option Char8 :=
  if c < 256 then some (BitVec.ofNat 8 c) else none

/-- The 8-bit codes of a string operand, if every element is one character (R73). -/
def chars8? : List Nat → Option (List Char8)
  | [] => some []
  | c :: cs =>
    match char8? c, chars8? cs with
    | some x, some xs => some (x :: xs)
    | _, _ => none

/-- The operands of a command with none. -/
def decodeNone (i : Instr) : List Operand → Decoded
  | [] => .instr i
  | _ => .mistyped

/-- The operands of a command with one integer. -/
def decodeInt (f : Int → Instr) : List Operand → Decoded
  | [.int a] => .instr (f a)
  | _ => .mistyped

/-- The operands of a command with two integers. -/
def decodeIntInt (f : Int → Int → Instr) : List Operand → Decoded
  | [.int a, .int b] => .instr (f a b)
  | _ => .mistyped

/-- The operands of WRITE_CHR_XLATE (R72). -/
def decodeXlate : List Operand → Decoded
  | [.char c, .int i, .bool d, .bool st] =>
    match char8? c with
    | some x => .instr (.writeChrXlate x i d st)
    | none => .mistyped
  | _ => .mistyped

/-- The operands of WRITE_STR (R72). -/
def decodeStr : List Operand → Decoded
  | [.str cs, .int n, .bool st] =>
    match chars8? cs with
    | some xs => .instr (.writeStr xs n st)
    | none => .mistyped
  | _ => .mistyped

/-- Command decoding, total on every record (R73): `op` 0..11 selects the command of R72, 12..15 spells none. -/
def decodeRecord (r : CommandRecord) : Decoded :=
  match r.op.toNat with
  | 0 => decodeNone .init r.operands
  | 1 => decodeNone .on r.operands
  | 2 => decodeNone .off r.operands
  | 3 => decodeNone .getDecodeMode r.operands
  | 4 => decodeInt .setDecodeMode r.operands
  | 5 => decodeNone .getIntensity r.operands
  | 6 => decodeInt .setIntensity r.operands
  | 7 => decodeNone .getMirror r.operands
  | 8 => decodeIntInt .writeChrRaw r.operands
  | 9 => decodeXlate r.operands
  | 10 => decodeStr r.operands
  | 11 => decodeIntInt .clear r.operands
  | _ => .illegalOp r.op

/-- The register addresses of R80; the digit register of physical position p is 0x01 + p (R104, D8). -/
def Register.addr : Register → Byte
  | .noop => 0x00#8
  | .digit p => 0x01#8 + BitVec.ofNat 8 p.val
  | .decodeMode => 0x09#8
  | .intensity => 0x0A#8
  | .scanLimit => 0x0B#8
  | .shutdown => 0x0C#8
  | .displayTest => 0x0F#8

/-- The register an address selects (R78, R80); none for the addresses no source names (R82). -/
def Register.ofAddr? (a : Byte) : Option Register :=
  match a.toNat with
  | 0x00 => some .noop
  | 0x01 => some (.digit 0)
  | 0x02 => some (.digit 1)
  | 0x03 => some (.digit 2)
  | 0x04 => some (.digit 3)
  | 0x05 => some (.digit 4)
  | 0x06 => some (.digit 5)
  | 0x07 => some (.digit 6)
  | 0x08 => some (.digit 7)
  | 0x09 => some .decodeMode
  | 0x0A => some .intensity
  | 0x0B => some .scanLimit
  | 0x0C => some .shutdown
  | 0x0F => some .displayTest
  | _ => none

/-- The WIRE16 row of a register, with its value byte. -/
def Register.instr : Register → Byte → Instr
  | .noop, v => .wrNoop v
  | .digit p, v =>
    match p with
    | 0 => .wrDigit0 v
    | 1 => .wrDigit1 v
    | 2 => .wrDigit2 v
    | 3 => .wrDigit3 v
    | 4 => .wrDigit4 v
    | 5 => .wrDigit5 v
    | 6 => .wrDigit6 v
    | 7 => .wrDigit7 v
  | .decodeMode, v => .wrDecodeMode v
  | .intensity, v => .wrIntensity v
  | .scanLimit, v => .wrScanLimit v
  | .shutdown, v => .wrShutdown v
  | .displayTest, v => .wrDisplayTest v

/-- The address field of a wire word: bits 15..8, transmitted first (R76). -/
def wireAddr (w : WireWord) : Byte := (w >>> 8).setWidth 8

/-- The value field of a wire word: bits 7..0, transmitted second (R76). -/
def wireValue (w : WireWord) : Byte := w.setWidth 8

/-- The 16-bit word of a transaction: `(address << 8) | value` (R53, R76, D23). -/
def wireWord (a v : Byte) : WireWord := (a.setWidth 16 <<< 8) ||| v.setWidth 16

/-- A wire word is read as `(a, v)` and the register is selected by `a` alone (R78). -/
def decodeWire (w : WireWord) : Decoded :=
  match Register.ofAddr? (wireAddr w) with
  | some r => .instr (r.instr (wireValue w))
  | none => .unnamedRegister (wireAddr w)

/-- Decoding on either interface (R70). -/
def decode : Encoding → Decoded
  | .command r => decodeRecord r
  | .wire w => decodeWire w

/-- The wire encoding of a register write (R76, R80). -/
def encodeWrite (r : Register) (v : Byte) : Encoding := .wire (wireWord r.addr v)

/-- The encoding of an instruction, from the tables of R72 and R80. -/
def encode : Instr → Encoding
  | .init => .command ⟨0, []⟩
  | .on => .command ⟨1, []⟩
  | .off => .command ⟨2, []⟩
  | .getDecodeMode => .command ⟨3, []⟩
  | .setDecodeMode v => .command ⟨4, [.int v]⟩
  | .getIntensity => .command ⟨5, []⟩
  | .setIntensity v => .command ⟨6, [.int v]⟩
  | .getMirror => .command ⟨7, []⟩
  | .writeChrRaw v i => .command ⟨8, [.int v, .int i]⟩
  | .writeChrXlate c i d st => .command ⟨9, [.char c.toNat, .int i, .bool d, .bool st]⟩
  | .writeStr s n st => .command ⟨10, [.str (s.map BitVec.toNat), .int n, .bool st]⟩
  | .clear n l => .command ⟨11, [.int n, .int l]⟩
  | .wrNoop v => encodeWrite .noop v
  | .wrDigit0 v => encodeWrite (.digit 0) v
  | .wrDigit1 v => encodeWrite (.digit 1) v
  | .wrDigit2 v => encodeWrite (.digit 2) v
  | .wrDigit3 v => encodeWrite (.digit 3) v
  | .wrDigit4 v => encodeWrite (.digit 4) v
  | .wrDigit5 v => encodeWrite (.digit 5) v
  | .wrDigit6 v => encodeWrite (.digit 6) v
  | .wrDigit7 v => encodeWrite (.digit 7) v
  | .wrDecodeMode v => encodeWrite .decodeMode v
  | .wrIntensity v => encodeWrite .intensity v
  | .wrScanLimit v => encodeWrite .scanLimit v
  | .wrShutdown v => encodeWrite .shutdown v
  | .wrDisplayTest v => encodeWrite .displayTest v

/-- The zero value of an operand type: integer 0, code 0, false, the empty string. -/
def OperandType.zero : OperandType → Operand
  | .int => .int 0
  | .char => .char 0
  | .bool => .bool false
  | .str => .str []

/-- The record of a command number with zero operands. -/
def zeroRecord (op : Nibble) : CommandRecord :=
  match signature op with
  | some ts => ⟨op, ts.map OperandType.zero⟩
  | none => ⟨op, []⟩

/-- The encoding that a word of spec/opcode_table.json stands for. A CMD row has one byte, whose bits 3..0 are `op` (R72;
the table gives its operands no bits, so they are zero); a WIRE16 row has the 16 bits of the transaction word (R76). -/
def tableEncoding (nbits w : Nat) : Encoding :=
  if nbits < 16 then .command (zeroRecord (BitVec.ofNat 4 w)) else .wire (BitVec.ofNat 16 w)

/-- The instruction the decoder reads from a word of the opcode table. -/
def decodeTableWord (nbits w : Nat) : Option Instr :=
  match decode (tableEncoding nbits w) with
  | .instr i => some i
  | .illegalOp _ => none
  | .mistyped => none
  | .unnamedRegister _ => none

/-- The command a call stands for (R14, R85), with the defaults of R86: dot = false, strict = false, start = 0; an absent
operand of `decode_mode` and `intensity` reads (R124). -/
def Call.toInstr : Call → Instr
  | .init => .init
  | .on => .on
  | .off => .off
  | .decodeMode none => .getDecodeMode
  | .decodeMode (some v) => .setDecodeMode v
  | .intensity none => .getIntensity
  | .intensity (some v) => .setIntensity v
  | .mirror => .getMirror
  | .writeChrRaw v i => .writeChrRaw v i
  | .writeChrXlate c i d st => .writeChrXlate c i (d.getD false) (st.getD false)
  | .writeStr s n st => .writeStr s (n.getD 0) (st.getD false)
  | .clear n l => .clear n l

/-- A character as it stands in a call's text: the character of its code (R75; what a code outside printable ASCII looks
like is not the spec's, log 11). -/
def charText (c : Char8) : String := String.singleton (Char.ofNat c.toNat)

/-- A Boolean in a call's text (R85). -/
def boolText (b : Bool) : String := if b then "True" else "False"

/-- A string's characters in a call's text. -/
def stringText (s : List Char8) : String := String.join (s.map charText)

/-- The textual syntax of a call (R85): integers in decimal, a character in single quotes, a string in double quotes. The
operands are positional, so a given `strict` is preceded by the operands before it, with their defaults where they are left
out (R86; DESIGN CHOICE, log 11). -/
def Call.text : Call → String
  | .init => "init()"
  | .on => "on()"
  | .off => "off()"
  | .decodeMode none => "decode_mode()"
  | .decodeMode (some v) => "decode_mode(" ++ toString v ++ ")"
  | .intensity none => "intensity()"
  | .intensity (some v) => "intensity(" ++ toString v ++ ")"
  | .mirror => "mirror()"
  | .writeChrRaw v i => "write_chr_raw(" ++ toString v ++ ", " ++ toString i ++ ")"
  | .writeChrXlate c i none none => "write_chr_xlate('" ++ charText c ++ "', " ++ toString i ++ ")"
  | .writeChrXlate c i (some d) none =>
    "write_chr_xlate('" ++ charText c ++ "', " ++ toString i ++ ", " ++ boolText d ++ ")"
  | .writeChrXlate c i d (some st) =>
    "write_chr_xlate('" ++ charText c ++ "', " ++ toString i ++ ", " ++ boolText (d.getD false) ++ ", " ++ boolText st ++ ")"
  | .writeStr s none none => "write_str(\"" ++ stringText s ++ "\")"
  | .writeStr s (some n) none => "write_str(\"" ++ stringText s ++ "\", " ++ toString n ++ ")"
  | .writeStr s n (some st) =>
    "write_str(\"" ++ stringText s ++ "\", " ++ toString (n.getD 0) ++ ", " ++ boolText st ++ ")"
  | .clear n l => "clear(" ++ toString n ++ ", " ++ toString l ++ ")"

end Sys2Proof
end

