-- ==== Sys2Proof/Config.lean ====
section
/-! DEFINITION. What is fixed for one instance of the block (spec/00_scope.md R8, the parameters of kind configuration)
and the free values the spec leaves unspecified: the digit buffer after construction (70_reset_and_hazards.md R260, D18), and
what a transport failure leaves (60_exceptions.md R234, D24).

The parameters are plain data carried by every State (field `cfg`), so a claim about all states is a claim about all
parameter values (log 3). Their default values are in Machine/Tables.lean. -/

namespace Sys2Proof

/-- `WIRE_BIT_ORDER` (R8, R53, D23): the transport's order of the bits of a byte on the serial wire. OPEN: no rule of
the block depends on it. -/
inductive BitOrder where
  | msbFirst
  | lsbFirst
deriving DecidableEq, Repr

/-- The configuration parameters of R8. The key sets of the two tables are constants (R170, R171), so a table is the
codes of its keys in the spec's listed order. -/
structure Config where
  /-- `BUILTIN_CODE` (R170, D4): the codes of the 16 builtin keys, in the order of R170. -/
  builtin : Vector Byte 16
  /-- `EXT_CODE` (R171, D5, D6): the codes of the 24 extended keys, in the order of R171. -/
  ext : Vector Byte 24
  /-- `INIT_DIGIT_ORDER` (R121, D16): the order of INIT's digit-register writes; a permutation of 0..7 (`Config.wf`). -/
  initOrder : List Pos
  /-- `WIRE_BIT_ORDER` (R53, D23). -/
  wireBitOrder : BitOrder
deriving DecidableEq, Repr

/-- FREE VALUE (R26, R260: `S.buf[p]` is "any u8 ... (unspecified)" after construction): the digit buffer element p of
`State.reset`. No body: nothing can be proved about it (log 2). -/
opaque Config.constructedByte : Nat → Byte

/-- FREE VALUE (R234: "the chip-select line level ... unspecified"): whether chip-select is left asserted after the
n-th transport failure. No body: nothing can be proved about it (log 9). -/
opaque Config.csAssertedAfterFailure : Nat → Bool

/-- FREE VALUE (R234, R177: `S.buf[p]` is "unspecified (old or new value)"): whether the digit buffer element of the
n-th failed digit write holds the new value. No body: nothing can be proved about it (log 9). -/
opaque Config.failedDigitWriteLands : Nat → Bool

end Sys2Proof
end

