-- ==== Sys2Proof/Machine/Tables.lean ====
section
/-! DEFINITION. The two character tables (spec/43_translator.md R170 to R172), their default codes, the default parameters
(00_scope.md R8) and the construction operands that `State.reset` is built with (log 1). -/

namespace Sys2Proof

/-- `'.'` (R75). -/
def chrDot : Char8 := 0x2E#8

/-- `' '` (R75). -/
def chrSpace : Char8 := 0x20#8

/-- The 16 keys of the builtin table, in the order of R170: '0'..'9', '-', 'E', 'H', 'L', 'P', ' ' (codes: R75). -/
def builtinKeys : List Char8 :=
  [0x30#8, 0x31#8, 0x32#8, 0x33#8, 0x34#8, 0x35#8, 0x36#8, 0x37#8, 0x38#8, 0x39#8] ++
  [0x2D#8, 0x45#8, 0x48#8, 0x4C#8, 0x50#8, 0x20#8]

/-- The 24 keys of the extended table, in the order of R171: '0'..'9', 'A'..'F', 'a'..'f', '-', ' ' (codes: R75). -/
def extKeys : List Char8 :=
  [0x30#8, 0x31#8, 0x32#8, 0x33#8, 0x34#8, 0x35#8, 0x36#8, 0x37#8, 0x38#8, 0x39#8] ++
  [0x41#8, 0x42#8, 0x43#8, 0x44#8, 0x45#8, 0x46#8] ++
  [0x61#8, 0x62#8, 0x63#8, 0x64#8, 0x65#8, 0x66#8] ++
  [0x2D#8, 0x20#8]

/-- The default of `BUILTIN_CODE` (R170; ' ' by D4, the other codes are general knowledge, G3): 0x00..0x0F. -/
def defaultBuiltin : Vector Byte 16 :=
  #v[0x00#8, 0x01#8, 0x02#8, 0x03#8, 0x04#8, 0x05#8, 0x06#8, 0x07#8, 0x08#8, 0x09#8,
     0x0A#8, 0x0B#8, 0x0C#8, 0x0D#8, 0x0E#8, 0x0F#8]

/-- The default of `EXT_CODE` (R171; ' ' by D6, shared letter codes by D5, the glyphs are general knowledge, G5). -/
def defaultExt : Vector Byte 24 :=
  #v[0x7E#8, 0x30#8, 0x6D#8, 0x79#8, 0x33#8, 0x5B#8, 0x5F#8, 0x70#8, 0x7F#8, 0x7B#8,
     0x77#8, 0x1F#8, 0x4E#8, 0x3D#8, 0x4F#8, 0x47#8,
     0x77#8, 0x1F#8, 0x4E#8, 0x3D#8, 0x4F#8, 0x47#8,
     0x01#8, 0x00#8]

/-- The default of `INIT_DIGIT_ORDER`: physical ascending (R8, D16). -/
def defaultInitOrder : List Pos := [0, 1, 2, 3, 4, 5, 6, 7]

/-- The default parameters (R8). `WIRE_BIT_ORDER` has no default in the spec: DESIGN CHOICE (log 4). -/
def Config.default : Config :=
  { builtin := defaultBuiltin, ext := defaultExt, initOrder := defaultInitOrder, wireBitOrder := .msbFirst }

/-- `INIT_DIGIT_ORDER` is a permutation of 0..7 (R8). -/
def Config.wf (c : Config) : Bool :=
  decide (c.initOrder.length = 8) && decide c.initOrder.Nodup

/-- `lookup(T, c)` of R172 for a table given by its keys and their codes: exact match, no case folding (D7). -/
def lookupIn : List Char8 → List Byte → Char8 → Option Byte
  | k :: ks, v :: vs, c => if c = k then some v else lookupIn ks vs c
  | _, _, _ => none

/-- `lookup(BUILTIN_CODE, c)` (R170, R172). -/
def Config.builtinCode (cfg : Config) (c : Char8) : Option Byte := lookupIn builtinKeys cfg.builtin.toList c

/-- `lookup(EXT_CODE, c)` (R171, R172). -/
def Config.extCode (cfg : Config) (c : Char8) : Option Byte := lookupIn extKeys cfg.ext.toList c

/-- DM0 of `State.reset` (DESIGN CHOICE, log 1; the value of R121's example). -/
def resetDM0 : Byte := 0xFF#8

/-- INT0 of `State.reset` (DESIGN CHOICE, log 1; the value of R121's example). -/
def resetINT0 : Nibble := 7#4

/-- MIRROR of `State.reset` (DESIGN CHOICE, log 1; the value of R121's example). -/
def resetMIRROR : Bool := false

end Sys2Proof
end

