-- ==== Sys2Proof/Machine/State.lean ====
section
/-! DEFINITION. The state of the block (spec/10_state.md R20 to R35), its errors and answers (60_exceptions.md R230, R235),
the reasons a step can stop, and the state after construction (70_reset_and_hazards.md R260). -/

namespace Sys2Proof.Machine

open Sys2Proof

/-- `S.phase` (R27). `configuring` exists only inside INIT and is no value of it. -/
inductive Phase where
  | uninitialized
  | on
  | off
deriving DecidableEq, Repr

/-- `S.cs`, the chip-select output (R28): active low, asserted is the line low (R102). -/
inductive ChipSelect where
  | deasserted
  | asserted
deriving DecidableEq, Repr

/-- One transaction `(register address, value)` (R29, R76). -/
structure Transaction where
  addr : Byte
  value : Byte
deriving DecidableEq, Repr

/-- The errors of R230 with their recorded info. -/
inductive Error where
  /-- 1: the offending logical index (R231). -/
  | bounds (index : Int)
  /-- 2: the offending value (R232). -/
  | intensityRange (value : Int)
  /-- 3: the character and the logical index (R233). -/
  | translation (char : Char8) (index : Int)
  /-- 4: the offending value (R238). -/
  | valueRange (value : Int)
  /-- 5: the transaction (R234). -/
  | transport (addr value : Byte)
  /-- 6: the op (R239). -/
  | illegalCommand (op : Nibble)
deriving DecidableEq, Repr

/-- The error codes that `S.errlog` holds (R30, R230, D21). -/
inductive ErrorCode where
  | boundsError
  | intensityRangeError
  | translationError
  | valueRangeError
  | transportError
  | illegalCommand
deriving DecidableEq, Repr

/-- The result of a command: unit, a returned value (R11, R72), or the error it raised (R235). -/
inductive Answer where
  | unit
  | u8 (v : Byte)
  | u4 (v : Nibble)
  | bool (b : Bool)
  | error (e : Error)
deriving DecidableEq, Repr

/-- What the transport answers to one transaction (`TRANSPORT` of R8, R103, D24). -/
inductive TransportAnswer where
  | ok
  | fail
deriving DecidableEq, Repr

/-- The digit buffer space (R26, R50): exactly 8 bytes, by physical position. -/
abbrev Memory := Vector Byte 8

/-- The reasons a step stops without a next state. -/
inductive Fault where
  /-- Raised by every meaning and by `step` once `S.faulted` is set: no command has a meaning, the block is stuck
  (R237, D35). Safe: the block has no step here by the spec. -/
  | blockFaulted
  /-- Raised by `step` when the command-list run ended at a command that raised (R21, R235, D34). Safe: nothing of a run
  after its end is claimed; a host that goes on issuing commands is `State.issue`. -/
  | runEnded
  /-- Raised by `step` when no command is left in the list (R21). Safe: the run is over, no command is at hand. -/
  | endOfProgram
deriving DecidableEq, Repr

/-- The reasons the model gives no meaning to what it fetched. -/
inductive Refusal where
  /-- Raised by an arm of `exec` whose instruction has no meaning yet (none). Safe. -/
  | notModelled (mnemonic : String)
  /-- Raised by `step` at a record whose operands do not have the types of R72: "refused at the interface; it never reaches
  a command rule" (R73, D32). Safe. -/
  | mistypedRecord
  /-- Raised by `step` at a bare wire word whose address no source names (R82): it spells no row of the table. Safe. -/
  | unnamedRegister (a : Byte)
deriving DecidableEq, Repr

/-- The complete state (R33), with the parameters of R8, the host's command list (R21), the transport's answers (R103) and
the model's own fields `port` and `draws`. Plain data throughout. -/
structure State where
  /-- The instance's parameters (R8, R32); no command writes them. -/
  cfg : Config
  /-- `S.decode_mode` (R23), logical. -/
  decodeMode : Byte
  /-- `S.intensity` (R24). -/
  intensity : Nibble
  /-- `S.mirror` (R25). -/
  mirror : Bool
  /-- `S.buf` (R26, R50), by physical position. -/
  buf : Memory
  /-- `S.phase` (R27). -/
  phase : Phase
  /-- `S.cs` (R28). -/
  cs : ChipSelect
  /-- `S.trace` (R29), oldest first. -/
  trace : List Transaction
  /-- `S.errlog` (R30), oldest first. -/
  errlog : List ErrorCode
  /-- `S.faulted` (R30). -/
  faulted : Bool
  /-- The commands' results, oldest first (R11, R29, R235; log 5). -/
  answers : List Answer
  /-- The host's command list (R21; log 6). -/
  program : List CommandRecord
  /-- The index of the next command (R21). -/
  pc : Nat
  /-- The run of the command list ended at a command that raised (R21, R235). -/
  ended : Bool
  /-- MODEL'S OWN: a bare register write waiting to be emitted, for the WIRE16 rows of the table (log 8). -/
  port : Option WireWord
  /-- The transport's answers to the next transactions (R103, D24; log 7). -/
  transport : List TransportAnswer
  /-- MODEL'S OWN: how many times free values have been drawn (log 9). -/
  draws : Nat
deriving DecidableEq, Repr

/-- The state right after a construction with operands in range (R260). `contents` is what the digit buffer holds then:
"any u8, for each p in 0..7 (unspecified)" (R260, D18), so it is any 8 bytes (log 2). The MODEL'S OWN fields are at the
values of logs 5 to 9. -/
def State.fresh (cfg : Config) (dm0 : Byte) (int0 : Nibble) (mirror : Bool) (contents : Memory) : State :=
  { cfg := cfg, decodeMode := dm0, intensity := int0, mirror := mirror, buf := contents, phase := .uninitialized,
    cs := .deasserted, trace := [], errlog := [], faulted := false, answers := [], program := [], pc := 0,
    ended := false, port := none, transport := [], draws := 0 }

/-- The digit buffer of `State.reset`: 8 free values (R26, R260; log 2). -/
def resetBuf : Memory := #v[
  Config.constructedByte 0, Config.constructedByte 1, Config.constructedByte 2, Config.constructedByte 3,
  Config.constructedByte 4, Config.constructedByte 5, Config.constructedByte 6, Config.constructedByte 7]

/-- The machine right after reset: the construction of R260 with the default parameters of R8 and the operands of log 1. -/
def State.reset : State := State.fresh Config.default resetDM0 resetINT0 resetMIRROR resetBuf

end Sys2Proof.Machine
end

