-- ==== Sys2Proof/Machine/Mirror.lean ====
section
/-! DEFINITION. The mirror transform (spec/42_mirror_transform.md R150 to R154) and the register address of a physical
position (40_register_protocol.md R104, R105). -/

namespace Sys2Proof.Machine

open Sys2Proof

/-- First stage of R150: swap the two nibbles. -/
def swapNibbles (v : Byte) : Byte := ((v &&& 0xF0#8) >>> 4) ||| ((v &&& 0x0F#8) <<< 4)

/-- Second stage of R150: swap the 2-bit pairs within each nibble. -/
def swapPairs (v : Byte) : Byte := ((v &&& 0xCC#8) >>> 2) ||| ((v &&& 0x33#8) <<< 2)

/-- Third stage of R150: swap adjacent bits. -/
def swapBits (v : Byte) : Byte := ((v &&& 0xAA#8) >>> 1) ||| ((v &&& 0x55#8) <<< 1)

/-- `rev8` (R150): the 3-stage swap. -/
def rev8 (v : Byte) : Byte := swapBits (swapPairs (swapNibbles v))

/-- `phys` (R151): `7 - i` when mirrored, else `i`. -/
def phys (mirror : Bool) (i : Pos) : Pos :=
  if mirror then ⟨7 - i.val, by omega⟩ else i

/-- `dm_wire(S)` (R105): the value sent to the decode-mode register. -/
def dmWire (s : State) : Byte := if s.mirror then rev8 s.decodeMode else s.decodeMode

/-- `digit_addr(p) = 0x01 + p` (R104, D8). -/
def digitAddr (p : Pos) : Byte := 0x01#8 + BitVec.ofNat 8 p.val

end Sys2Proof.Machine
end

