-- ==== Sys2Proof/Machine/Operands.lean ====
section
/-! DEFINITION. The operand forms of the commands: checked integers (spec/30_encoding.md R74), the logical index (43_translator.md
R174), bytes (60_exceptions.md R238), the intensity (41_configuration.md R128). Every integer operand is a mathematical
integer (D29); a check answers the value in range or nothing. -/

namespace Sys2Proof.Machine

open Sys2Proof

/-- `check_index` (R174): the logical index, if it is in 0..7. -/
def checkIndex (i : Int) : Option Pos :=
  if h : 0 ≤ i ∧ i < 8 then some ⟨i.toNat, by omega⟩ else none

/-- A byte operand (R126, R178, R238): the value, if it is in 0..255. -/
def checkByte (v : Int) : Option Byte :=
  if 0 ≤ v ∧ v ≤ 255 then some (BitVec.ofInt 8 v) else none

/-- The intensity operand (R128, R232): the value, if it is in 0..15. -/
def checkIntensity (v : Int) : Option Nibble :=
  if 0 ≤ v ∧ v ≤ 15 then some (BitVec.ofInt 4 v) else none

/-- `zext_8` of the intensity (R9, R106). -/
def zext8 (v : Nibble) : Byte := v.setWidth 8

end Sys2Proof.Machine
end

