-- ==== Sys2Proof/Machine/Flags.lean ====
section
/-! DEFINITION. The block has no condition flags (spec/10_state.md R22), and no command writes any (00_scope.md R12). The one flag
the spec computes with is the decimal-point flag: bit 7 of a digit value (40_register_protocol.md R104, 43_translator.md
R179). -/

namespace Sys2Proof.Machine

open Sys2Proof

/-- The decimal-point bit (R104, R179). -/
def dotBit : Byte := 0x80#8

/-- "if dot: v <- v | 0x80" (R179); without the flag the value is as it is. -/
def withDot (v : Byte) (dot : Bool) : Byte := if dot then v ||| dotBit else v

end Sys2Proof.Machine
end

