-- ==== Sys2Proof/Machine/Ops.lean ====
section
/-! DEFINITION. The named operations the meanings are built from: the digit buffer (spec/20_memory.md R50), raising an error and
answering (60_exceptions.md R230 to R241), the transport and `WriteReg` (40_register_protocol.md R100 to R103), the digit
write (43_translator.md R177), and how a meaning ends (R237). -/

namespace Sys2Proof.Machine

open Sys2Proof

/-- `MemRead(p, 1)` (R50): the byte at a physical position. -/
def Memory.read (m : Memory) (p : Pos) : Byte := m[p.val]

/-- `MemWrite(p, 1, v)` (R50). -/
def Memory.write (m : Memory) (p : Pos) (v : Byte) : Memory := m.set p.val v

/-- The physical view of the digit buffer: `S.buf[p]` (R26). -/
def State.bufAt (s : State) (p : Pos) : Byte := Memory.read s.buf p

/-- The logical view of the digit buffer: `S.buf[phys(i)]` (R26, R151). -/
def State.logicalAt (s : State) (i : Pos) : Byte := s.bufAt (phys s.mirror i)

/-- The code of an error (R230). -/
def Error.code : Error → ErrorCode
  | .bounds _ => .boundsError
  | .intensityRange _ => .intensityRangeError
  | .translation _ _ => .translationError
  | .valueRange _ => .valueRangeError
  | .transport _ _ => .transportError
  | .illegalCommand _ => .illegalCommand

/-- The spec's number of a code (R230, D21). -/
def ErrorCode.number : ErrorCode → Nat
  | .boundsError => 1
  | .intensityRangeError => 2
  | .translationError => 3
  | .valueRangeError => 4
  | .transportError => 5
  | .illegalCommand => 6

/-- Error delivery (R235): the code is appended to the log and the error is the command's answer. Nothing else: no handler,
no saved pc, no mode change; the effects performed before remain (R236), and there is no return (R241). -/
def raise (e : Error) (s : State) : State :=
  { s with errlog := s.errlog ++ [e.code], answers := s.answers ++ [.error e] }

/-- A command ends without an error with the result `a` (R11). -/
def respond (a : Answer) (s : State) : State := { s with answers := s.answers ++ [a] }

/-- How far a command has come: it goes on, or it has raised (and the error is delivered). -/
inductive Flow where
  | go (s : State)
  | stop (s : State)
deriving DecidableEq, Repr

/-- The state a command has reached. -/
def Flow.state : Flow → State
  | .go s => s
  | .stop s => s

/-- Go on with `f`, unless the command has ended (R235: an error ends the command at once). -/
def Flow.andThen (x : Flow) (f : State → Flow) : Flow :=
  match x with
  | .go s => f s
  | .stop s => .stop s

/-- The transport's answer to the k-th next transaction (R103). Where the list gives none it is ok (log 7). -/
def State.answerAt (s : State) (k : Nat) : TransportAnswer := (s.transport[k]?).getD .ok

/-- The level of chip-select after a transport failure: unspecified (R234), a free value. -/
def csAfterFailure (n : Nat) : ChipSelect :=
  if Config.csAssertedAfterFailure n then .asserted else .deasserted

/-- "asserts chip-select active" (R100). -/
def assertCs (s : State) : State := { s with cs := .asserted }

/-- The transport takes the transaction: "then deasserts chip-select", and it joins the trace (R100). -/
def accepted (a v : Byte) (s : State) : State :=
  { s with cs := .deasserted, trace := s.trace ++ [⟨a, v⟩], transport := s.transport.tail }

/-- The transport fails the transaction (R234): TransportError, the block is faulted, the transaction is not in the trace,
the chip-select level is a free value. -/
def failed (a v : Byte) (s : State) : State :=
  raise (.transport a v)
    { s with cs := csAfterFailure s.draws, faulted := true, transport := s.transport.tail, draws := s.draws + 1 }

/-- `WriteReg(a, v)` (R100): one framed transaction, its success decided by the transport (R103). -/
def writeReg (a v : Byte) (s : State) : Flow :=
  let s1 := assertCs s
  match s1.answerAt 0 with
  | .ok => .go (accepted a v s1)
  | .fail => .stop (failed a v s1)

/-- A digit's buffer element and its transaction, one step, buffer first (R61, R177, D10; INIT's loop body, R121). After a
transport failure the element holds the old or the new value, which of them is a free value (R234). -/
def writePos (p : Pos) (v : Byte) (s : State) : Flow :=
  match writeReg (digitAddr p) v { s with buf := Memory.write s.buf p v } with
  | .go t => .go t
  | .stop t => .stop { t with buf := if Config.failedDigitWriteLands s.draws then t.buf else s.buf }

/-- `DigitWrite(i, v)` (R177) for a checked logical index. -/
def digitWrite (i : Pos) (v : Byte) (s : State) : Flow := writePos (phys s.mirror i) v s

/-- A command raises `e` (R11, R235). -/
def raiseNow (e : Error) (s : State) : Flow := .stop (raise e s)

/-- A command as a whole: no meaning once the block is faulted (R237); otherwise its body runs, and where it does not raise
it answers `answer` (R11). -/
def runCommand (body : State → Flow) (answer : State → Answer) (s : State) : Host.Outcome State Fault Refusal :=
  if s.faulted then .fault .blockFaulted
  else
    .next (match body s with
      | .go t => respond (answer t) t
      | .stop t => t)

/-- The result of a command that returns no value (R11). -/
def unitAnswer (_ : State) : Answer := .unit

/-- A bare register write (R100: "No return value"); no meaning once the block is faulted (R237). -/
def runWrite (a v : Byte) (s : State) : Host.Outcome State Fault Refusal :=
  if s.faulted then .fault .blockFaulted else .next (writeReg a v s).state

/-- IllegalCommand (R73, R239): it changes no state other than the error log (and the answer given to the host). -/
def illegalCommand (op : Nibble) (s : State) : Host.Outcome State Fault Refusal :=
  if s.faulted then .fault .blockFaulted else .next (raise (.illegalCommand op) s)

end Sys2Proof.Machine
end

