-- ==== Sys2Proof/Machine/Configuration.lean ====
section
/-! DEFINITION. Configuration and initialization commands (spec/41_configuration.md R120 to R129). -/

namespace Sys2Proof.Machine

open Sys2Proof

/-- INIT's loop (R121): each position of `INIT_DIGIT_ORDER` gets 0x00, in the buffer and in its register. -/
def clearDigits : List Pos → State → Flow
  | [], s => .go s
  | p :: ps, s => (writePos p 0x00#8 s).andThen (clearDigits ps)

/-- `S.phase <- ph` (R121 to R123). -/
def setPhase (ph : Phase) (s : State) : Flow := .go { s with phase := ph }

/-- A write of the shutdown register (R108): 0x00 off, 0x01 on. -/
def writeShutdown (v : Byte) (s : State) : Flow := writeReg Register.shutdown.addr v s

/-- The decode-mode register is written through the mirror transform (R105). -/
def writeDecodeMode (s : State) : Flow := writeReg Register.decodeMode.addr (dmWire s) s

/-- The intensity register is written from the stored intensity (R106). -/
def writeIntensity (s : State) : Flow := writeReg Register.intensity.addr (zext8 s.intensity) s

/-- The body of INIT (R121, R264): 14 transactions in this order. -/
def initBody (s : State) : Flow :=
  (writeShutdown 0x00#8 s).andThen fun s =>
  (clearDigits s.cfg.initOrder s).andThen fun s =>
  (writeDecodeMode s).andThen fun s =>
  (writeIntensity s).andThen fun s =>
  (writeReg Register.scanLimit.addr 0x07#8 s).andThen fun s =>
  (writeReg Register.displayTest.addr 0x00#8 s).andThen fun s =>
  (writeShutdown 0x01#8 s).andThen (setPhase .on)

/-- INIT (R121). -/
def execInit (s : State) : Host.Outcome State Fault Refusal :=
  runCommand initBody unitAnswer s

/-- The body of ON (R122). -/
def onBody (s : State) : Flow := (writeShutdown 0x01#8 s).andThen (setPhase .on)

/-- ON (R122). -/
def execOn (s : State) : Host.Outcome State Fault Refusal := runCommand onBody unitAnswer s

/-- The body of OFF (R123). -/
def offBody (s : State) : Flow := (writeShutdown 0x00#8 s).andThen (setPhase .off)

/-- OFF (R123). -/
def execOff (s : State) : Host.Outcome State Fault Refusal := runCommand offBody unitAnswer s

/-- The result of the decode-mode commands: the stored logical value (R125, R126). -/
def decodeModeAnswer (s : State) : Answer := .u8 s.decodeMode

/-- The result of the intensity commands: the stored value (R127, R128). -/
def intensityAnswer (s : State) : Answer := .u4 s.intensity

/-- The result of GET_MIRROR (R129). -/
def mirrorAnswer (s : State) : Answer := .bool s.mirror

/-- GET_DECODE_MODE (R125): the stored logical value, no transaction. -/
def execGetDecodeMode (s : State) : Host.Outcome State Fault Refusal := runCommand Flow.go decodeModeAnswer s

/-- The body of SET_DECODE_MODE (R126): range check first, then the store, then the register write. -/
def setDecodeModeBody (value : Int) (s : State) : Flow :=
  match checkByte value with
  | none => raiseNow (.valueRange value) s
  | some v => writeDecodeMode { s with decodeMode := v }

/-- SET_DECODE_MODE (R126). -/
def execSetDecodeMode (value : Int) (s : State) : Host.Outcome State Fault Refusal :=
  runCommand (setDecodeModeBody value) decodeModeAnswer s

/-- GET_INTENSITY (R127): no transaction. -/
def execGetIntensity (s : State) : Host.Outcome State Fault Refusal := runCommand Flow.go intensityAnswer s

/-- The body of SET_INTENSITY (R128): range check first, then the store, then the register write. -/
def setIntensityBody (value : Int) (s : State) : Flow :=
  match checkIntensity value with
  | none => raiseNow (.intensityRange value) s
  | some v => writeIntensity { s with intensity := v }

/-- SET_INTENSITY (R128). -/
def execSetIntensity (value : Int) (s : State) : Host.Outcome State Fault Refusal :=
  runCommand (setIntensityBody value) intensityAnswer s

/-- GET_MIRROR (R129): no transaction. -/
def execGetMirror (s : State) : Host.Outcome State Fault Refusal := runCommand Flow.go mirrorAnswer s

end Sys2Proof.Machine
end

