-- ==== Sys2Proof/Machine/Translator.lean ====
section
/-! DEFINITION. The character translator and the digit writes (spec/43_translator.md R172 to R180). -/

namespace Sys2Proof.Machine

open Sys2Proof

/-- `lookup` in the table that logical index i selects (R172, R173): bit i of the logical decode mode, 1 the builtin table,
0 the extended one. -/
def selectLookup (cfg : Config) (dm : Byte) (i : Pos) (c : Char8) : Option Byte :=
  if dm.getLsbD i.val then cfg.builtinCode c else cfg.extCode c

/-- The fallback code of the selected table (R173): 0x0F builtin, 0x00 extended. -/
def fallback (dm : Byte) (i : Pos) : Byte := if dm.getLsbD i.val then 0x0F#8 else 0x00#8

/-- '.' is a space with the decimal-point flag forced on, before the lookup (R175). -/
def undotChar (c : Char8) : Char8 := if c = chrDot then chrSpace else c

/-- The decimal-point flag after R175. -/
def undotFlag (c : Char8) (dot : Bool) : Bool := if c = chrDot then true else dot

/-- `xlate_code` (R179); nothing where it raises TranslationError (an unknown character under `strict`). -/
def xlateCode (cfg : Config) (dm : Byte) (c : Char8) (i : Pos) (dot strict : Bool) : Option Byte :=
  match selectLookup cfg dm i (undotChar c) with
  | some v => some (withDot v (undotFlag c dot))
  | none => if strict then none else some (withDot (fallback dm i) (undotFlag c dot))

/-- The body of WRITE_CHR_XLATE (R176): bounds, translation, digit write, in this order. -/
def writeXlate (c : Char8) (index : Int) (dot strict : Bool) (s : State) : Flow :=
  match checkIndex index with
  | none => raiseNow (.bounds index) s
  | some i =>
    match xlateCode s.cfg s.decodeMode c i dot strict with
    | none => raiseNow (.translation c index) s
    | some v => digitWrite i v s

/-- WRITE_CHR_XLATE (R176). -/
def execWriteChrXlate (c : Char8) (index : Int) (dot strict : Bool) (s : State) : Host.Outcome State Fault Refusal :=
  runCommand (writeXlate c index dot strict) unitAnswer s

/-- The body of WRITE_CHR_RAW (R178): bounds, byte range, digit write, in this order; the decode mode is not consulted. -/
def writeRaw (value index : Int) (s : State) : Flow :=
  match checkIndex index with
  | none => raiseNow (.bounds index) s
  | some i =>
    match checkByte value with
    | none => raiseNow (.valueRange value) s
    | some v => digitWrite i v s

/-- WRITE_CHR_RAW (R178). -/
def execWriteChrRaw (value index : Int) (s : State) : Host.Outcome State Fault Refusal :=
  runCommand (writeRaw value index) unitAnswer s

end Sys2Proof.Machine
end

