-- ==== Sys2Proof/Machine/Layout.lean ====
section
/-! DEFINITION. String layout and decimal-point merging (spec/44_layout.md R200 to R207). -/

namespace Sys2Proof.Machine

open Sys2Proof

/-- An entry of the transient output buffer (R31, R200): a character and its dot flag. -/
structure Entry where
  char : Char8
  dot : Bool
deriving DecidableEq, Repr

/-- A '.' cannot merge: the buffer is empty or its last entry is dotted (R202). -/
def lastIsDotted (es : List Entry) : Bool :=
  match es.getLast? with
  | none => true
  | some e => e.dot

/-- `last(E).dot <- true` (R203). -/
def dotLast : List Entry → List Entry
  | [] => []
  | [e] => [{ e with dot := true }]
  | e :: es => e :: dotLast es

/-- The scan of R203 from the entries collected so far. A full buffer ends it at a character other than '.' (R201); a '.'
that cannot merge into a full buffer is dropped and the scan goes on (R202, D12). -/
def scan : List Char8 → List Entry → List Entry
  | [], es => es
  | c :: cs, es =>
    if c = chrDot then
      if lastIsDotted es then
        if es.length < 8 then scan cs (es ++ [⟨chrDot, true⟩]) else scan cs es
      else scan cs (dotLast es)
    else if es.length = 8 then es
    else scan cs (es ++ [⟨c, false⟩])

/-- `layout` (R203). -/
def layout (s : List Char8) : List Entry := scan s []

/-- Emission (R204, R205): the entries from logical position `pos` on, through WRITE_CHR_XLATE, up to position 7; the first
error ends the command (R205, R236). -/
def emitEntries : List Entry → Int → Bool → State → Flow
  | [], _, _, s => .go s
  | e :: es, pos, strict, s =>
    if 8 ≤ pos then .go s
    else (writeXlate e.char pos e.dot strict s).andThen (emitEntries es (pos + 1) strict)

/-- The body of WRITE_STR (R205). -/
def writeString (cs : List Char8) (start : Int) (strict : Bool) (s : State) : Flow :=
  emitEntries (layout cs) start strict s

/-- WRITE_STR (R205). -/
def execWriteStr (cs : List Char8) (start : Int) (strict : Bool) (s : State) : Host.Outcome State Fault Refusal :=
  runCommand (writeString cs start strict) unitAnswer s

/-- The string CLEAR lays out (R87, R206): ' ' repeated max(length, 0) times. -/
def blanks (length : Int) : List Char8 := List.replicate length.toNat chrSpace

/-- CLEAR (R206): the expansion into WRITE_STR. -/
def execClear (start length : Int) (s : State) : Host.Outcome State Fault Refusal :=
  runCommand (writeString (blanks length) start false) unitAnswer s

end Sys2Proof.Machine
end

