-- ==== Sys2Proof/Machine/Wire.lean ====
section
/-! DEFINITION. The WIRE16 rows of the opcode table (spec/30_encoding.md R76, R80): each is one transaction `WriteReg(a, v)`
(40_register_protocol.md R100). The commands emit transactions through the same operation; a row stepped on its own is one
bare transaction and touches no other state (log 8). Also the views of a transaction: its word (R53), its bus events (R101),
the level of chip-select (R102), the register it selects (R78). -/

namespace Sys2Proof.Machine

open Sys2Proof

/-- A bare write of a register of R80. -/
def emitRegister (r : Register) (v : Byte) (s : State) : Host.Outcome State Fault Refusal := runWrite r.addr v s

/-- WR_NOOP (R110: named by the map, emitted by no command). -/
def execWrNoop (v : Byte) (s : State) : Host.Outcome State Fault Refusal := emitRegister .noop v s

/-- WR_DIGIT0 (R104). -/
def execWrDigit0 (v : Byte) (s : State) : Host.Outcome State Fault Refusal := emitRegister (.digit 0) v s

/-- WR_DIGIT1 (R104). -/
def execWrDigit1 (v : Byte) (s : State) : Host.Outcome State Fault Refusal := emitRegister (.digit 1) v s

/-- WR_DIGIT2 (R104). -/
def execWrDigit2 (v : Byte) (s : State) : Host.Outcome State Fault Refusal := emitRegister (.digit 2) v s

/-- WR_DIGIT3 (R104). -/
def execWrDigit3 (v : Byte) (s : State) : Host.Outcome State Fault Refusal := emitRegister (.digit 3) v s

/-- WR_DIGIT4 (R104). -/
def execWrDigit4 (v : Byte) (s : State) : Host.Outcome State Fault Refusal := emitRegister (.digit 4) v s

/-- WR_DIGIT5 (R104). -/
def execWrDigit5 (v : Byte) (s : State) : Host.Outcome State Fault Refusal := emitRegister (.digit 5) v s

/-- WR_DIGIT6 (R104). -/
def execWrDigit6 (v : Byte) (s : State) : Host.Outcome State Fault Refusal := emitRegister (.digit 6) v s

/-- WR_DIGIT7 (R104). -/
def execWrDigit7 (v : Byte) (s : State) : Host.Outcome State Fault Refusal := emitRegister (.digit 7) v s

/-- WR_DECODE_MODE (R105). -/
def execWrDecodeMode (v : Byte) (s : State) : Host.Outcome State Fault Refusal := emitRegister .decodeMode v s

/-- WR_INTENSITY (R106). -/
def execWrIntensity (v : Byte) (s : State) : Host.Outcome State Fault Refusal := emitRegister .intensity v s

/-- WR_SCAN_LIMIT (R107). -/
def execWrScanLimit (v : Byte) (s : State) : Host.Outcome State Fault Refusal := emitRegister .scanLimit v s

/-- WR_SHUTDOWN (R108). -/
def execWrShutdown (v : Byte) (s : State) : Host.Outcome State Fault Refusal := emitRegister .shutdown v s

/-- WR_DISPLAY_TEST (R109). -/
def execWrDisplayTest (v : Byte) (s : State) : Host.Outcome State Fault Refusal := emitRegister .displayTest v s

/-- The transaction as a 16-bit word (R53, R76, D23). -/
def Transaction.word (t : Transaction) : WireWord := wireWord t.addr t.value

/-- The register a trace decoder reads from a transaction, by its address alone (R78, R80). -/
def Transaction.register? (t : Transaction) : Option Register := Register.ofAddr? t.addr

/-- A transaction this block can emit (R80, R82): a named register, and a value the block writes to it. -/
def Transaction.emittable (t : Transaction) : Bool :=
  match t.register? with
  | some r => r.admits t.value
  | none => false

/-- The events on the chip-select line and the bus (R101). -/
inductive BusEvent where
  | csAssert
  | byte (b : Byte)
  | csDeassert
deriving DecidableEq, Repr

/-- One `WriteReg(a, v)` is exactly these four events (R101). -/
def Transaction.events (t : Transaction) : List BusEvent := [.csAssert, .byte t.addr, .byte t.value, .csDeassert]

/-- The bus events of the completed transactions (R60, R101). -/
def State.busEvents (s : State) : List BusEvent := s.trace.flatMap Transaction.events

/-- The electrical level of the chip-select line (R102: active low); true is high. -/
def ChipSelect.lineHigh : ChipSelect → Bool
  | .asserted => false
  | .deasserted => true

/-- The bits of a byte in the order the transport sends them (`WIRE_BIT_ORDER`, R53, D23; the transport's, no rule of the
block depends on it). -/
def byteBits (o : BitOrder) (b : Byte) : List Bool :=
  match o with
  | .msbFirst => [7, 6, 5, 4, 3, 2, 1, 0].map b.getLsbD
  | .lsbFirst => [0, 1, 2, 3, 4, 5, 6, 7].map b.getLsbD

/-- The bits of a transaction on the serial wire: the address byte first (R53). -/
def State.wireBits (s : State) (t : Transaction) : List Bool :=
  byteBits s.cfg.wireBitOrder t.addr ++ byteBits s.cfg.wireBitOrder t.value

end Sys2Proof.Machine
end

