-- ==== Sys2Proof/Machine/Dispatch.lean ====
section
/-! DEFINITION. One arm per constructor of Instr, each one direct call of its meaning. -/

namespace Sys2Proof.Machine

open Sys2Proof

def exec (i : Instr) (s : State) : Host.Outcome State Fault Refusal :=
  match i with
  | .init => Sys2Proof.Machine.execInit s
  | .on => Sys2Proof.Machine.execOn s
  | .off => Sys2Proof.Machine.execOff s
  | .getDecodeMode => Sys2Proof.Machine.execGetDecodeMode s
  | .setDecodeMode value => Sys2Proof.Machine.execSetDecodeMode value s
  | .getIntensity => Sys2Proof.Machine.execGetIntensity s
  | .setIntensity value => Sys2Proof.Machine.execSetIntensity value s
  | .getMirror => Sys2Proof.Machine.execGetMirror s
  | .writeChrRaw value index => Sys2Proof.Machine.execWriteChrRaw value index s
  | .writeChrXlate c index dot strict => Sys2Proof.Machine.execWriteChrXlate c index dot strict s
  | .writeStr cs start strict => Sys2Proof.Machine.execWriteStr cs start strict s
  | .clear start length => Sys2Proof.Machine.execClear start length s
  | .wrNoop v => Sys2Proof.Machine.execWrNoop v s
  | .wrDigit0 v => Sys2Proof.Machine.execWrDigit0 v s
  | .wrDigit1 v => Sys2Proof.Machine.execWrDigit1 v s
  | .wrDigit2 v => Sys2Proof.Machine.execWrDigit2 v s
  | .wrDigit3 v => Sys2Proof.Machine.execWrDigit3 v s
  | .wrDigit4 v => Sys2Proof.Machine.execWrDigit4 v s
  | .wrDigit5 v => Sys2Proof.Machine.execWrDigit5 v s
  | .wrDigit6 v => Sys2Proof.Machine.execWrDigit6 v s
  | .wrDigit7 v => Sys2Proof.Machine.execWrDigit7 v s
  | .wrDecodeMode v => Sys2Proof.Machine.execWrDecodeMode v s
  | .wrIntensity v => Sys2Proof.Machine.execWrIntensity v s
  | .wrScanLimit v => Sys2Proof.Machine.execWrScanLimit v s
  | .wrShutdown v => Sys2Proof.Machine.execWrShutdown v s
  | .wrDisplayTest v => Sys2Proof.Machine.execWrDisplayTest v s

end Sys2Proof.Machine
end

