-- ==== Sys2Proof/Machine/HostProgram.lean ====
section
/-! DEFINITION. The host's side of a run (spec/10_state.md R21, 60_exceptions.md R235, R237) and several instances (R35, R246). -/

namespace Sys2Proof.Machine

open Sys2Proof

/-- The last command raised an error: its answer is an error (R235). -/
def State.raised (s : State) : Bool :=
  match s.answers.getLast? with
  | some (.error _) => true
  | some .unit => false
  | some (.u8 _) => false
  | some (.u4 _) => false
  | some (.bool _) => false
  | none => false

/-- After a command of the list: "advanced by exactly 1 when a command completes without error"; a run ends at the first
command that raises (R21, R235, D34). -/
def State.settle (s : State) : State :=
  if s.raised then { s with ended := true } else { s with pc := s.pc + 1 }

/-- The host issues a command list: at construction, or after an error that did not fault the block (R237). The block's own
state is kept. -/
def State.issue (program : List CommandRecord) (s : State) : State :=
  { s with program := program, pc := 0, ended := false }

/-- Settle a command's outcome; a fault or a refusal stays what it is. -/
def settleOutcome : Host.Outcome State Fault Refusal → Host.Outcome State Fault Refusal
  | .next t => .next t.settle
  | .fault f => .fault f
  | .refused r => .refused r

/-- The block receives one command record (R73). -/
def issueRecord (r : CommandRecord) (s : State) : Host.Outcome State Fault Refusal :=
  match decode (.command r) with
  | .instr i => settleOutcome (exec i s)
  | .illegalOp op => settleOutcome (illegalCommand op s)
  | .mistyped => .refused .mistypedRecord
  | .unnamedRegister a => .refused (.unnamedRegister a)

/-- A bare wire word is emitted (log 8). -/
def emitWord (w : WireWord) (s : State) : Host.Outcome State Fault Refusal :=
  match decode (.wire w) with
  | .instr i => exec i s
  | .unnamedRegister a => .refused (.unnamedRegister a)
  | .illegalOp op => illegalCommand op s
  | .mistyped => .refused .mistypedRecord

/-- Several instances, each with its own complete state (R35, R246). -/
abbrev Instances := List State

/-- Instance `k` executes an instruction: only its own state is read or written (R35). A number that names no instance
changes nothing. -/
def Instances.execAt (k : Nat) (i : Instr) : Instances → Host.Outcome Instances Fault Refusal
  | [] => .next []
  | s :: ss =>
    match k with
    | 0 =>
      match exec i s with
      | .next t => .next (t :: ss)
      | .fault f => .fault f
      | .refused r => .refused r
    | k + 1 =>
      match Instances.execAt k i ss with
      | .next ts => .next (s :: ts)
      | .fault f => .fault f
      | .refused r => .refused r

end Sys2Proof.Machine
end

