-- ==== Sys2Proof/Machine/Step.lean ====
section
/-! DEFINITION. One step of a run (spec/10_state.md R21, R34; 60_exceptions.md R235, R237): a bare register write that waits, or
the next command of the host's list. -/

namespace Sys2Proof.Machine

open Sys2Proof

/-- One step. -/
def step (s : State) : Host.Outcome State Fault Refusal :=
  if s.faulted then .fault .blockFaulted
  else
    match s.port with
    | some w => emitWord w { s with port := none }
    | none =>
      if s.ended then .fault .runEnded
      else
        match s.program[s.pc]? with
        | none => .fault .endOfProgram
        | some r => issueRecord r s

/-- The state with the instruction of a table word placed where the next step takes it: a command is issued by the host as
a list of one command (R21); a wire word waits at the port (log 8). A program is loaded from outside (log 6). -/
def State.withFetchWord (s : State) (nbits w : Nat) : State :=
  match tableEncoding nbits w with
  | .command r => { State.issue [r] s with port := none }
  | .wire x => { s with port := some x }

end Sys2Proof.Machine
end

