-- ==== Sys2Proof/Machine/Construct.lean ====
section
/-! DEFINITION. Construction, the block's reset (spec/70_reset_and_hazards.md R260, R261). -/

namespace Sys2Proof.Machine

open Sys2Proof

/-- What a construction gives: an instance, or an error and no instance (R260, D26). -/
inductive Construction where
  | built (s : State)
  | raised (e : Error)
deriving DecidableEq, Repr

/-- `CONSTRUCT(DM0, INT0, MIRROR)` (R260): the range checks in the rule's order, then the reset values; no transaction. The
rule leaves the 8 buffer elements unspecified: `contents` may be any 8 bytes (log 2). -/
def State.construct (cfg : Config) (dm0 int0 : Int) (mirror : Bool) (contents : Memory) : Construction :=
  match checkByte dm0 with
  | none => .raised (.valueRange dm0)
  | some dm =>
    match checkIntensity int0 with
    | none => .raised (.intensityRange int0)
    | some int => .built (State.fresh cfg dm int mirror contents)

end Sys2Proof.Machine
end

