-- ==== Sys2Proof/Safety.lean ====
section
/-! DEFINITION. What the claims are stated in: a block that can run, the transport's answers to come, what the trace says the
chip was last sent, and the invariant of a run. -/

namespace Sys2Proof.Machine

open Sys2Proof

/-- The block is not faulted: the premise R237 asks every claim about a command to take. -/
abbrev State.live (s : State) : Prop := s.faulted = false

/-- The transport takes the next `n` transactions (R103). -/
abbrev State.accepts (s : State) (n : Nat) : Prop := ∀ k < n, s.answerAt k = .ok

/-- The state after one transaction that the transport takes (R100). -/
abbrev State.sent (s : State) (a v : Byte) : State :=
  { s with cs := .deasserted, trace := s.trace ++ [⟨a, v⟩], transport := s.transport.tail }

/-- The state after one transaction that the transport fails (R234): TransportError is delivered, the block is faulted, the
trace is as it was, the chip-select level is a free value. -/
abbrev State.sendFailed (s : State) (a v : Byte) : State :=
  { s with cs := csAfterFailure s.draws, faulted := true, transport := s.transport.tail, draws := s.draws + 1,
           errlog := s.errlog ++ [.transportError], answers := s.answers ++ [.error (.transport a v)] }

/-- The state after a command that ends with the result `a` (R11). -/
abbrev State.answered (s : State) (a : Answer) : State := { s with answers := s.answers ++ [a] }

/-- The state after an error that leaves everything but the log and the answer as it was (R235, R236). -/
abbrev State.errored (s : State) (e : Error) : State :=
  { s with errlog := s.errlog ++ [e.code], answers := s.answers ++ [.error e] }

/-- The value of the last transaction to an address, if there is one (R60, R78). -/
def lastWrite (tr : List Transaction) (a : Byte) : Option Byte :=
  tr.foldl (fun last t => if t.addr = a then some t.value else last) none

/-- The phase that the last shutdown-register write stands for (R27, R248). -/
def phaseOf : Option Byte → Phase
  | none => .uninitialized
  | some v => if v = 0x01#8 then .on else .off

/-- What the block keeps agrees with what the chip was last sent (R27, R65, R105, R106, R107, R109), as long as no transaction
has failed. -/
structure State.Shadow (s : State) : Prop where
  csIdle : s.cs = .deasserted
  digits : ∀ (p : Pos) v, lastWrite s.trace (digitAddr p) = some v → v = s.bufAt p
  decodeModeSent : ∀ v, lastWrite s.trace 0x09#8 = some v → v = dmWire s
  intensitySent : ∀ v, lastWrite s.trace 0x0A#8 = some v → v = zext8 s.intensity
  scanLimitSent : ∀ v, lastWrite s.trace 0x0B#8 = some v → v = 0x07#8
  displayTestSent : ∀ v, lastWrite s.trace 0x0F#8 = some v → v = 0x00#8
  powerSent : s.phase = phaseOf (lastWrite s.trace 0x0C#8)

/-- The error code of an answer, if it is an error. -/
def Answer.errorCode? : Answer → Option ErrorCode
  | .error e => some e.code
  | .unit => none
  | .u8 _ => none
  | .u4 _ => none
  | .bool _ => none

/-- The invariant of a host-driven run (R29, R30, R34, R82). -/
structure State.Inv (s : State) : Prop where
  /-- Only host commands emit transactions: no bare write waits (R100; log 8). -/
  hostDriven : s.port = none
  /-- `INIT_DIGIT_ORDER` is a permutation (R8). -/
  params : s.cfg.wf = true
  /-- The trace holds nothing the block does not emit (R82). -/
  legalTrace : ∀ t ∈ s.trace, t.emittable = true
  /-- The log holds the code of every error that was answered, in order (R30, R235). -/
  errorLog : s.errlog = s.answers.filterMap Answer.errorCode?
  /-- The block is faulted exactly if a transaction has failed (R30, R234). -/
  faultedIff : s.faulted = true ↔ .transportError ∈ s.errlog
  /-- The index stays within the command list, or just past it (R21). -/
  inProgram : s.pc ≤ s.program.length
  /-- The shadow of the chip's registers (R65), unless a transaction has failed. -/
  shadow : s.live → s.Shadow

/-- A safe run so far: no error has been raised (R30). -/
abbrev State.clean (s : State) : Prop := s.errlog = [] ∧ s.faulted = false

/-- The 14 transactions of INIT in order (R121, R111). -/
def initTransactions (s : State) : List Transaction :=
  [⟨0x0C#8, 0x00#8⟩] ++
  s.cfg.initOrder.map (fun p => ⟨digitAddr p, 0x00#8⟩) ++
  [⟨0x09#8, dmWire s⟩, ⟨0x0A#8, zext8 s.intensity⟩, ⟨0x0B#8, 0x07#8⟩, ⟨0x0F#8, 0x00#8⟩, ⟨0x0C#8, 0x01#8⟩]

end Sys2Proof.Machine

namespace Sys2Proof

open Sys2Proof.Machine

/-- How many transactions a command emits at most (R111); a bare register write emits one. -/
def Instr.maxTransactions : Instr → Nat
  | .init => 14
  | .getDecodeMode => 0
  | .getIntensity => 0
  | .getMirror => 0
  | .writeStr _ _ _ => 8
  | .clear _ _ => 8
  | .on => 1
  | .off => 1
  | .setDecodeMode _ => 1
  | .setIntensity _ => 1
  | .writeChrRaw _ _ => 1
  | .writeChrXlate _ _ _ _ => 1
  | .wrNoop _ => 1
  | .wrDigit0 _ => 1
  | .wrDigit1 _ => 1
  | .wrDigit2 _ => 1
  | .wrDigit3 _ => 1
  | .wrDigit4 _ => 1
  | .wrDigit5 _ => 1
  | .wrDigit6 _ => 1
  | .wrDigit7 _ => 1
  | .wrDecodeMode _ => 1
  | .wrIntensity _ => 1
  | .wrScanLimit _ => 1
  | .wrShutdown _ => 1
  | .wrDisplayTest _ => 1

/-- The phase after a command that completes (R120). -/
def Instr.phaseAfter : Instr → Phase → Phase
  | .init, _ => .on
  | .on, _ => .on
  | .off, _ => .off
  | .getDecodeMode, ph => ph
  | .setDecodeMode _, ph => ph
  | .getIntensity, ph => ph
  | .setIntensity _, ph => ph
  | .getMirror, ph => ph
  | .writeChrRaw _ _, ph => ph
  | .writeChrXlate _ _ _ _, ph => ph
  | .writeStr _ _ _, ph => ph
  | .clear _ _, ph => ph
  | .wrNoop _, ph => ph
  | .wrDigit0 _, ph => ph
  | .wrDigit1 _, ph => ph
  | .wrDigit2 _, ph => ph
  | .wrDigit3 _, ph => ph
  | .wrDigit4 _, ph => ph
  | .wrDigit5 _, ph => ph
  | .wrDigit6 _, ph => ph
  | .wrDigit7 _, ph => ph
  | .wrDecodeMode _, ph => ph
  | .wrIntensity _, ph => ph
  | .wrScanLimit _, ph => ph
  | .wrShutdown _, ph => ph
  | .wrDisplayTest _, ph => ph

end Sys2Proof
end

