-- ==== Sys2Proof/Certificates/Slice0/Obligations.lean ====
section
/-! DEFINITION. The statements for the provers, from the numbered rules of spec/. A statement takes "not faulted" (`live`) as a
premise where it is about a command (R237), quantifies over every parameter of R8 (they are fields of the state) and over
every answer of the transport, and rests on no value of `draws` or of an exhausted `transport` list. -/

open Sys2Proof Sys2Proof.Machine

/-! ### Encoding -/

/-- R72, R76, R80: decoding the encoding of an instruction gives it back, with every operand at every value. -/
def Obligations.DecodeOfEncode : Prop := ∀ i : Instr, decode (encode i) = .instr i

/-- R72, R76, R80: an encoding that decodes to an instruction is the encoding of that instruction. -/
def Obligations.EncodeOfDecode : Prop := ∀ (e : Encoding) (i : Instr), decode e = .instr i → encode i = e

/-- R72, R73, R74: decoding a record, by its command number and its operands. -/
def Obligations.RecordDecodingIsTotal : Prop :=
  ∀ r : CommandRecord,
    (12 ≤ r.op.toNat → decode (.command r) = .illegalOp r.op) ∧
    (r.op.toNat < 12 → r.wellFormed = false → decode (.command r) = .mistyped) ∧
    (r.wellFormed = true → ∃ i : Instr, decode (.command r) = .instr i ∧ i.isCommand = true)

/-- R78, R80, R82: a wire word selects its register by the address alone; an address no source names selects none. -/
def Obligations.WireWordSelectsByAddress : Prop :=
  (∀ (r : Register) (v : Byte), decode (.wire (wireWord r.addr v)) = .instr (r.instr v)) ∧
  (∀ a v : Byte, a = 0x0D#8 ∨ a = 0x0E#8 ∨ 0x10#8 ≤ a → decode (.wire (wireWord a v)) = .unnamedRegister a) ∧
  (∀ a : Byte, a ≠ 0x0D#8 → a ≠ 0x0E#8 → a < 0x10#8 → ∃ r : Register, r.addr = a)

/-- R76: the word of a transaction has the address in bits 15..8 and the value in bits 7..0. -/
def Obligations.WireWordLayout : Prop :=
  ∀ a v : Byte, (wireWord a v).toNat = 256 * a.toNat + v.toNat ∧ wireAddr (wireWord a v) = a ∧ wireValue (wireWord a v) = v

/-- R72, R76: words and records written out from the spec's encodings decode to what they stand for. -/
def Obligations.SampleEncodingsDecode : Prop :=
  decode (.command ⟨0b0000#4, []⟩) = .instr .init ∧
  decode (.command ⟨0b0110#4, [.int 15]⟩) = .instr (.setIntensity 15) ∧
  decode (.command ⟨0b1001#4, [.char 0x41, .int 1, .bool true, .bool false]⟩) =
    .instr (.writeChrXlate 0x41#8 1 true false) ∧
  decode (.command ⟨0b1010#4, [.str [0x31, 0x2E, 0x32], .int 0, .bool false]⟩) =
    .instr (.writeStr [0x31#8, 0x2E#8, 0x32#8] 0 false) ∧
  decode (.command ⟨0b1101#4, []⟩) = .illegalOp 13#4 ∧
  decode (.wire 0b0000100010000001#16) = .instr (.wrDigit7 0x81#8) ∧
  decode (.wire 0b0000110000000001#16) = .instr (.wrShutdown 0x01#8)

/-- R86, R124: optional operands left out take false, false and 0; an absent value reads, any supplied one sets. -/
def Obligations.CallDefaults : Prop :=
  (∀ (c : Char8) (i : Int) (d : Bool),
    (Call.writeChrXlate c i none none).toInstr = .writeChrXlate c i false false ∧
    (Call.writeChrXlate c i (some d) none).toInstr = .writeChrXlate c i d false) ∧
  (∀ (cs : List Char8) (n : Int),
    (Call.writeStr cs none none).toInstr = .writeStr cs 0 false ∧
    (Call.writeStr cs (some n) none).toInstr = .writeStr cs n false) ∧
  (∀ v : Int,
    (Call.decodeMode none).toInstr = .getDecodeMode ∧ (Call.decodeMode (some v)).toInstr = .setDecodeMode v ∧
    (Call.intensity none).toInstr = .getIntensity ∧ (Call.intensity (some v)).toInstr = .setIntensity v)

/-! ### Construction -/

/-- R260: the range checks of a construction, in order, and the reset values; the digit buffer is any 8 bytes, whichever the
unspecified `contents` are. -/
def Obligations.ConstructionSetsResetValues : Prop :=
  ∀ (cfg : Config) (dm0 int0 : Int) (m : Bool) (contents : Memory),
    (¬ (0 ≤ dm0 ∧ dm0 ≤ 0xFF) → State.construct cfg dm0 int0 m contents = .raised (.valueRange dm0)) ∧
    ((0 ≤ dm0 ∧ dm0 ≤ 0xFF) → ¬ (0 ≤ int0 ∧ int0 ≤ 0xF) →
      State.construct cfg dm0 int0 m contents = .raised (.intensityRange int0)) ∧
    ((0 ≤ dm0 ∧ dm0 ≤ 0xFF) → (0 ≤ int0 ∧ int0 ≤ 0xF) →
      ∃ s, State.construct cfg dm0 int0 m contents = .built s ∧ s.cfg = cfg ∧ (s.decodeMode.toNat : Int) = dm0 ∧
        (s.intensity.toNat : Int) = int0 ∧ s.mirror = m ∧ s.phase = .uninitialized ∧ s.cs = .deasserted ∧ s.trace = [] ∧
        s.errlog = [] ∧ s.faulted = false ∧ ∀ p : Pos, s.bufAt p = Memory.read contents p)

/-- The MODEL'S CHOICE of construction operands for `State.reset` (log 1), with the default parameters of R8 and free values
in the digit buffer (log 2). -/
def Obligations.ResetIsAConstruction : Prop :=
  State.construct Config.default 0xFF 7 false resetBuf = .built State.reset

/-! ### A step and a run -/

/-- R21: a step runs the command the index names; the index advances by 1 unless the command raised, which ends the run. -/
def Obligations.StepRunsTheDecodedCommand : Prop :=
  ∀ (s : State) (r : CommandRecord) (i : Instr), s.live → s.port = none → s.ended = false →
    s.program[s.pc]? = some r → decode (.command r) = .instr i →
    step s = (match exec i s with
      | .next t => .next (if t.raised then { t with ended := true } else { t with pc := t.pc + 1 })
      | .fault f => .fault f
      | .refused x => .refused x)

/-- A bare register write that waits at the MODEL'S port (log 8) is what the next step runs. -/
def Obligations.StepEmitsTheWaitingWrite : Prop :=
  ∀ (s : State) (w : WireWord) (i : Instr), s.live → s.port = some w → decode (.wire w) = .instr i →
    step s = exec i { s with port := none }

/-- R73, R239: a record with op 12..15 raises IllegalCommand; no field of the block but the error log changes (the answer
goes to the host, and the run of the command list ends, R235). -/
def Obligations.IllegalCommandRaises : Prop :=
  ∀ (s : State) (r : CommandRecord), s.live → s.port = none → s.ended = false → s.program[s.pc]? = some r →
    12 ≤ r.op.toNat →
    step s = .next { s with
      errlog := s.errlog ++ [.illegalCommand], answers := s.answers ++ [.error (.illegalCommand r.op)], ended := true }

/-- R73: a record whose operands do not have the types of R72 is refused at the interface. -/
def Obligations.MistypedRecordIsRefused : Prop :=
  ∀ (s : State) (r : CommandRecord), s.live → s.port = none → s.ended = false → s.program[s.pc]? = some r →
    r.op.toNat < 12 → r.wellFormed = false → step s = .refused .mistypedRecord

/-- R21, R235: every step of a command-list run either completes its command, gives one answer and advances the index by
exactly 1, or raises exactly one error, answers it, and ends the run with the index where it was. -/
def Obligations.RunAdvancesOrEnds : Prop :=
  ∀ s t : State, s.port = none → step s = .next t →
    t.program = s.program ∧ t.port = none ∧
    ((t.errlog = s.errlog ∧ (∃ a : Answer, t.answers = s.answers ++ [a]) ∧ t.pc = s.pc + 1 ∧ t.ended = s.ended) ∨
     (∃ e : Error, t.errlog = s.errlog ++ [e.code] ∧ t.answers = s.answers ++ [.error e] ∧ t.pc = s.pc ∧
       t.ended = true))

/-- R21, R235: a run that has ended, or whose list is used up, has no further step. -/
def Obligations.NoStepAfterTheRun : Prop :=
  ∀ s : State, s.live → s.port = none →
    (s.ended = true → step s = .fault .runEnded) ∧
    (s.ended = false → s.program.length ≤ s.pc → step s = .fault .endOfProgram)

/-- R237: after a transport failure no command has a meaning and the block has no step. -/
def Obligations.FaultedBlockIsStuck : Prop :=
  ∀ s : State, s.faulted = true → (∀ i : Instr, exec i s = .fault .blockFaulted) ∧ step s = .fault .blockFaulted

/-! ### The whole machine -/

/-- The invariant of a host-driven run: legal trace, error log, shadow of the chip's registers. -/
def Obligations.StepKeepsTheInvariant : Prop := ∀ s t : State, s.Inv → step s = .next t → t.Inv

/-- The invariant holds after every construction with a permutation as `INIT_DIGIT_ORDER`. -/
def Obligations.ConstructionHasTheInvariant : Prop :=
  ∀ (cfg : Config) (dm0 int0 : Int) (m : Bool) (contents : Memory) (s : State), cfg.wf = true →
    State.construct cfg dm0 int0 m contents = .built s → s.Inv

/-- R120: no command is refused in any phase; the phase after a command that completes, and after one that raises. -/
def Obligations.PhaseTransitions : Prop :=
  ∀ (s : State) (i : Instr), s.live → i.isCommand = true →
    ∃ t, exec i s = .next t ∧
      (t.errlog = s.errlog → t.phase = i.phaseAfter s.phase) ∧ (t.errlog ≠ s.errlog → t.phase = s.phase)

/-- R25, R32, R268: no instruction changes the mirror flag or a parameter; none touches the host's list. -/
def Obligations.ParametersNeverChange : Prop :=
  ∀ (i : Instr) (s t : State), exec i s = .next t →
    t.mirror = s.mirror ∧ t.cfg = s.cfg ∧ t.program = s.program ∧ t.pc = s.pc ∧ t.ended = s.ended ∧ t.port = s.port

/-- R23, R24, R26: which instructions write the decode mode, the intensity and the digit buffer. -/
def Obligations.OnlyTheirWritersChangeThem : Prop :=
  ∀ (i : Instr) (s t : State), exec i s = .next t →
    (t.decodeMode = s.decodeMode ∨ ∃ v, i = .setDecodeMode v) ∧
    (t.intensity = s.intensity ∨ ∃ v, i = .setIntensity v) ∧
    ((∀ p : Pos, t.bufAt p = s.bufAt p) ∨ i = .init ∨ (∃ v n, i = .writeChrRaw v n) ∨
      (∃ c n d st, i = .writeChrXlate c n d st) ∨ (∃ cs n st, i = .writeStr cs n st) ∨ (∃ n l, i = .clear n l))

/-- R29, R60, R111: an instruction only appends to the trace, and at most as many transactions as R111 counts. -/
def Obligations.TraceOnlyGrows : Prop :=
  ∀ (i : Instr) (s t : State), s.cfg.wf = true → exec i s = .next t →
    ∃ ts, t.trace = s.trace ++ ts ∧ ts.length ≤ i.maxTransactions

/-- R80, R82: a command appends only transactions to named registers, never to the no-op register, and only values of the
table of R80. -/
def Obligations.CommandsEmitOnlyLegalTransactions : Prop :=
  ∀ (i : Instr) (s t : State), i.isCommand = true → exec i s = .next t →
    ∃ ts, t.trace = s.trace ++ ts ∧ ∀ x ∈ ts,
      (0x01#8 ≤ x.addr ∧ x.addr ≤ 0x09#8) ∨ (x.addr = 0x0A#8 ∧ x.value ≤ 0x0F#8) ∨ (x.addr = 0x0B#8 ∧ x.value = 0x07#8) ∨
      (x.addr = 0x0C#8 ∧ (x.value = 0x00#8 ∨ x.value = 0x01#8)) ∨ (x.addr = 0x0F#8 ∧ x.value = 0x00#8)

/-- R230, R234, R235, R240: an instruction raises at most one error; its code joins the log, it is answered, and it faults
the block exactly if it is TransportError. -/
def Obligations.AtMostOneErrorPerCommand : Prop :=
  ∀ (i : Instr) (s t : State), exec i s = .next t →
    (t.errlog = s.errlog ∧ t.faulted = false) ∨
    ∃ e : Error, t.errlog = s.errlog ++ [e.code] ∧ t.answers = s.answers ++ [.error e] ∧
      (t.faulted = true ↔ e.code = .transportError)

/-- R236: an error other than TransportError that a single-digit or configuration command raises leaves every field but the
error log (and the answer) as it was. -/
def Obligations.SingleCommandErrorsLeaveState : Prop :=
  ∀ (i : Instr) (s t : State), (∀ cs n st, i ≠ .writeStr cs n st) → (∀ n l, i ≠ .clear n l) → exec i s = .next t →
    t.errlog ≠ s.errlog → t.faulted = false → ∃ e : Error, t = s.errored e

/-- R28, R34, R101: chip-select is deasserted between instructions unless the block is faulted. -/
def Obligations.ChipSelectIdleBetweenCommands : Prop :=
  ∀ (i : Instr) (s t : State), s.cs = .deasserted → exec i s = .next t → t.faulted = false → t.cs = .deasserted

/-- R61, R65, R177: the buffer follows the trace. After a command that leaves the block not faulted, each of the 8 elements
holds the last value that the command sent to its digit register, or what it held before if it sent none. -/
def Obligations.BufferFollowsTheTrace : Prop :=
  ∀ (i : Instr) (s t : State), i.isCommand = true → exec i s = .next t → t.faulted = false →
    ∃ ts, t.trace = s.trace ++ ts ∧
      ∀ p : Pos, t.bufAt p = (lastWrite ts (0x01#8 + BitVec.ofNat 8 p.val)).getD (s.bufAt p)

/-- R101: what an instruction adds to the bus is four events per transaction it adds to the trace, in order. -/
def Obligations.BusShowsFramedTransactions : Prop :=
  ∀ (i : Instr) (s t : State), exec i s = .next t →
    ∃ ts, t.trace = s.trace ++ ts ∧
      t.busEvents = s.busEvents ++ ts.flatMap fun x => [.csAssert, .byte x.addr, .byte x.value, .csDeassert]

/-- R35, R246: an instance's instruction leaves every other instance as it was and is its own `exec`. -/
def Obligations.InstancesAreIsolated : Prop :=
  ∀ (k : Nat) (i : Instr) (xs ys : Instances), Instances.execAt k i xs = .next ys →
    ys.length = xs.length ∧ (∀ j, j ≠ k → ys[j]? = xs[j]?) ∧
    (∀ s, xs[k]? = some s → ∃ t, exec i s = .next t ∧ ys[k]? = some t)

/-- R151, R154, L3 of spec/95: mirroring is invisible in the logical view. Two blocks that agree on everything but the mirror
flag and the places of the digits show the same logical digits and give the same answers after any command, as long as
the transport takes its transactions. -/
def Obligations.MirroringIsInvisibleLogically : Prop :=
  ∀ (i : Instr) (s u s' u' : State), i.isCommand = true → i ≠ .getMirror →
    s.cfg = u.cfg → s.cfg.wf = true → s.decodeMode = u.decodeMode → s.intensity = u.intensity → s.answers = u.answers →
    (∀ p : Pos, s.logicalAt p = u.logicalAt p) → s.accepts 14 → u.accepts 14 →
    exec i s = .next s' → exec i u = .next u' →
    s'.answers = u'.answers ∧ s'.decodeMode = u'.decodeMode ∧ s'.intensity = u'.intensity ∧
    ∀ p : Pos, s'.logicalAt p = u'.logicalAt p

/-! ### Initialization and power -/

/-- R121, R264, R111: INIT emits its 14 transactions in order, sets every buffer element to 0x00 and the phase to On, and
changes nothing else. -/
def Obligations.InitRunsItsSequence : Prop :=
  ∀ s : State, s.live → s.cfg.wf = true → s.accepts 14 →
    ∃ m : Memory,
      exec .init s = .next { s with
        buf := m, phase := .on, cs := .deasserted, transport := s.transport.drop 14, answers := s.answers ++ [.unit],
        trace := s.trace ++
          ([⟨0x0C#8, 0x00#8⟩] ++ s.cfg.initOrder.map (fun p => ⟨digitAddr p, 0x00#8⟩) ++
            [⟨0x09#8, if s.mirror then rev8 s.decodeMode else s.decodeMode⟩, ⟨0x0A#8, zext8 s.intensity⟩,
             ⟨0x0B#8, 0x07#8⟩, ⟨0x0F#8, 0x00#8⟩, ⟨0x0C#8, 0x01#8⟩]) } ∧
      s.cfg.initOrder.length = 8 ∧ ∀ p : Pos, Memory.read m p = 0x00#8

/-- R121, R234, R236: INIT whose k-th transaction fails. The transactions before it stay in the trace, the phase and the
stored configuration keep their values, an element whose write went out is 0x00, and an element whose write was not
attempted keeps its value. -/
def Obligations.InitStopsAtATransportFailure : Prop :=
  ∀ (s : State) (k : Nat), s.live → s.cfg.wf = true → k < 14 → s.accepts k → s.answerAt k = .fail →
    ∃ (t : State) (x : Transaction), (initTransactions s)[k]? = some x ∧ exec .init s = .next t ∧
      t.trace = s.trace ++ (initTransactions s).take k ∧ t.errlog = s.errlog ++ [.transportError] ∧
      t.answers = s.answers ++ [.error (.transport x.addr x.value)] ∧ t.faulted = true ∧ t.phase = s.phase ∧
      t.decodeMode = s.decodeMode ∧ t.intensity = s.intensity ∧ t.mirror = s.mirror ∧
      (∀ p : Pos, t.bufAt p = s.bufAt p ∨ t.bufAt p = 0x00#8) ∧
      (∀ p : Pos, ⟨digitAddr p, 0x00#8⟩ ∈ (initTransactions s).take k → t.bufAt p = 0x00#8) ∧
      (∀ p : Pos, ⟨digitAddr p, 0x00#8⟩ ∉ (initTransactions s).take (k + 1) → t.bufAt p = s.bufAt p)

/-- R121, V-C2 of spec/95: a second INIT performs the same 14 transactions again. -/
def Obligations.SecondInitRepeatsTheFirst : Prop :=
  ∀ s : State, s.live → s.cfg.wf = true → s.accepts 28 →
    ∃ t u ts, exec .init s = .next t ∧ exec .init t = .next u ∧ ts.length = 14 ∧ t.trace = s.trace ++ ts ∧
      u.trace = s.trace ++ ts ++ ts ∧ ∀ p : Pos, u.bufAt p = t.bufAt p

/-- R122: ON, whose transaction the transport takes or fails. -/
def Obligations.OnPowersTheDisplayOn : Prop :=
  decode (.command ⟨1#4, []⟩) = .instr .on ∧
  ∀ s : State, s.live →
    (s.answerAt 0 = .ok → exec .on s = .next { s.sent 0x0C#8 0x01#8 with phase := .on, answers := s.answers ++ [.unit] }) ∧
    (s.answerAt 0 = .fail → exec .on s = .next (s.sendFailed 0x0C#8 0x01#8))

/-- R123: OFF, whose transaction the transport takes or fails; it keeps every other field. -/
def Obligations.OffPowersTheDisplayOff : Prop :=
  decode (.command ⟨2#4, []⟩) = .instr .off ∧
  ∀ s : State, s.live →
    (s.answerAt 0 = .ok →
      exec .off s = .next { s.sent 0x0C#8 0x00#8 with phase := .off, answers := s.answers ++ [.unit] }) ∧
    (s.answerAt 0 = .fail → exec .off s = .next (s.sendFailed 0x0C#8 0x00#8))

/-! ### Decode mode, intensity, mirror -/

/-- R125, R127, R129: the three getters answer the stored value and change nothing else; no transaction. -/
def Obligations.GettersAnswerStoredValues : Prop :=
  decode (.command ⟨3#4, []⟩) = .instr .getDecodeMode ∧ decode (.command ⟨5#4, []⟩) = .instr .getIntensity ∧
  decode (.command ⟨7#4, []⟩) = .instr .getMirror ∧
  ∀ s : State, s.live →
    exec .getDecodeMode s = .next (s.answered (.u8 s.decodeMode)) ∧
    exec .getIntensity s = .next (s.answered (.u4 s.intensity)) ∧
    exec .getMirror s = .next (s.answered (.bool s.mirror))

/-- R126: SET_DECODE_MODE out of range, completed, and failing in the transport (the stored value is then already the new
one). The digit buffer is not re-translated. -/
def Obligations.SetDecodeModeStoresAndSends : Prop :=
  (∀ v : Int, decode (.command ⟨4#4, [.int v]⟩) = .instr (.setDecodeMode v)) ∧
  ∀ (s : State) (value : Int), s.live →
    (value < 0 ∨ 255 < value → exec (.setDecodeMode value) s = .next (s.errored (.valueRange value))) ∧
    (∀ v : Byte, (v.toNat : Int) = value →
      (s.answerAt 0 = .ok →
        exec (.setDecodeMode value) s = .next { s with
          decodeMode := v, cs := .deasserted, transport := s.transport.tail,
          trace := s.trace ++ [⟨0x09#8, if s.mirror then rev8 v else v⟩], answers := s.answers ++ [.u8 v] }) ∧
      (s.answerAt 0 = .fail →
        exec (.setDecodeMode value) s =
          .next (State.sendFailed { s with decodeMode := v } 0x09#8 (if s.mirror then rev8 v else v))))

/-- R128: SET_INTENSITY out of range, completed, and failing in the transport (the stored value is then already the new
one). -/
def Obligations.SetIntensityStoresAndSends : Prop :=
  (∀ v : Int, decode (.command ⟨6#4, [.int v]⟩) = .instr (.setIntensity v)) ∧
  ∀ (s : State) (value : Int), s.live →
    (value < 0 ∨ 15 < value → exec (.setIntensity value) s = .next (s.errored (.intensityRange value))) ∧
    (∀ v : Nibble, (v.toNat : Int) = value →
      (s.answerAt 0 = .ok →
        exec (.setIntensity value) s = .next { s with
          intensity := v, cs := .deasserted, transport := s.transport.tail,
          trace := s.trace ++ [⟨0x0A#8, BitVec.ofNat 8 v.toNat⟩], answers := s.answers ++ [.u4 v] }) ∧
      (s.answerAt 0 = .fail →
        exec (.setIntensity value) s =
          .next (State.sendFailed { s with intensity := v } 0x0A#8 (BitVec.ofNat 8 v.toNat))))

/-! ### The mirror transform -/

/-- R150: `rev8` reverses the bits. -/
def Obligations.Rev8ReversesBits : Prop := ∀ (v : Byte) (k : Nat), k < 8 → (rev8 v).getLsbD k = v.getLsbD (7 - k)

/-- R151, R152: both reversals are their own inverse, and a mirrored position is `7 - i`. -/
def Obligations.MirrorTransformsAreInvolutions : Prop :=
  (∀ v : Byte, rev8 (rev8 v) = v) ∧ (∀ (m : Bool) (i : Pos), phys m (phys m i) = i) ∧
  (∀ i : Pos, (phys true i).val = 7 - i.val ∧ phys false i = i)

/-- R153: bit `phys(i)` of the value sent to the decode-mode register is bit i of the stored decode mode. -/
def Obligations.SentDecodeBitsMatchStored : Prop :=
  ∀ (s : State) (i : Pos), (dmWire s).getLsbD (phys s.mirror i).val = s.decodeMode.getLsbD i.val

/-! ### Translation and digit writes -/

/-- R170, R171, R172: a code is found exactly if it is one of the 16 (24) keys; the codes are the parameters', in the order of
the keys. -/
def Obligations.TablesHoldExactlyTheirKeys : Prop :=
  ∀ (cfg : Config) (c : Char8),
    ((cfg.builtinCode c).isSome ↔
      (0x30#8 ≤ c ∧ c ≤ 0x39#8) ∨ c = 0x2D#8 ∨ c = 0x45#8 ∨ c = 0x48#8 ∨ c = 0x4C#8 ∨ c = 0x50#8 ∨ c = 0x20#8) ∧
    ((cfg.extCode c).isSome ↔
      (0x30#8 ≤ c ∧ c ≤ 0x39#8) ∨ (0x41#8 ≤ c ∧ c ≤ 0x46#8) ∨ (0x61#8 ≤ c ∧ c ≤ 0x66#8) ∨ c = 0x2D#8 ∨ c = 0x20#8) ∧
    (∀ k : Nat, builtinKeys[k]? = some c → cfg.builtinCode c = cfg.builtin[k]?) ∧
    (∀ k : Nat, extKeys[k]? = some c → cfg.extCode c = cfg.ext[k]?)

/-- R173, R175, R179: the translation function. -/
def Obligations.TranslationFunction : Prop :=
  ∀ (cfg : Config) (dm : Byte) (c : Char8) (i : Pos) (dot strict : Bool),
    let table := fun x => if dm.getLsbD i.val then cfg.builtinCode x else cfg.extCode x
    (c ≠ 0x2E#8 → ∀ v, table c = some v → xlateCode cfg dm c i dot strict = some (if dot then v ||| 0x80#8 else v)) ∧
    (c ≠ 0x2E#8 → table c = none → xlateCode cfg dm c i dot true = none) ∧
    (c ≠ 0x2E#8 → table c = none →
      xlateCode cfg dm c i dot false =
        some (if dot then (if dm.getLsbD i.val then 0x8F#8 else 0x80#8) else (if dm.getLsbD i.val then 0x0F#8 else 0x00#8))) ∧
    (c = 0x2E#8 → ∃ v, table 0x20#8 = some v ∧ xlateCode cfg dm c i dot strict = some (v ||| 0x80#8))

/-- R174, R176, R177, R240: WRITE_CHR_XLATE. The bounds come first, then the translation; then the element and the register
of `phys(index)` get the code. Every other byte of the buffer and every other field is as before. -/
def Obligations.WriteChrXlateWritesOneDigit : Prop :=
  ∀ (s : State) (c : Char8) (index : Int) (dot strict : Bool), s.live →
    (index < 0 ∨ 7 < index → exec (.writeChrXlate c index dot strict) s = .next (s.errored (.bounds index))) ∧
    (∀ i : Pos, (i.val : Int) = index →
      (xlateCode s.cfg s.decodeMode c i dot strict = none →
        exec (.writeChrXlate c index dot strict) s = .next (s.errored (.translation c index))) ∧
      (∀ v, xlateCode s.cfg s.decodeMode c i dot strict = some v → s.answerAt 0 = .ok →
        ∃ m : Memory,
          exec (.writeChrXlate c index dot strict) s = .next { s with
            buf := m, cs := .deasserted, transport := s.transport.tail, answers := s.answers ++ [.unit],
            trace := s.trace ++ [⟨0x01#8 + BitVec.ofNat 8 (phys s.mirror i).val, v⟩] } ∧
          Memory.read m (phys s.mirror i) = v ∧
          ∀ q : Pos, q ≠ phys s.mirror i → Memory.read m q = Memory.read s.buf q))

/-- R174, R177, R178, R240: WRITE_CHR_RAW. The bounds come first, then the byte range; then the element and the register of
`phys(index)` get the byte, whatever the decode mode. Every other byte and every other field is as before. -/
def Obligations.WriteChrRawWritesOneDigit : Prop :=
  ∀ (s : State) (value index : Int), s.live →
    (index < 0 ∨ 7 < index → exec (.writeChrRaw value index) s = .next (s.errored (.bounds index))) ∧
    (∀ i : Pos, (i.val : Int) = index →
      (value < 0 ∨ 255 < value → exec (.writeChrRaw value index) s = .next (s.errored (.valueRange value))) ∧
      (∀ v : Byte, (v.toNat : Int) = value → s.answerAt 0 = .ok →
        ∃ m : Memory,
          exec (.writeChrRaw value index) s = .next { s with
            buf := m, cs := .deasserted, transport := s.transport.tail, answers := s.answers ++ [.unit],
            trace := s.trace ++ [⟨0x01#8 + BitVec.ofNat 8 (phys s.mirror i).val, v⟩] } ∧
          Memory.read m (phys s.mirror i) = v ∧
          ∀ q : Pos, q ≠ phys s.mirror i → Memory.read m q = Memory.read s.buf q))

/-- R177, R234: a digit write that the transport fails. Nothing joins the trace, the block is faulted, the element is the old
or the new value, every other element is as before. -/
def Obligations.FailedDigitWriteLeavesOldOrNew : Prop :=
  ∀ (s : State) (i : Instr) (p : Pos) (v : Byte), s.live → s.answerAt 0 = .fail →
    ((∃ c d st, i = .writeChrXlate c (p.val : Int) d st ∧ xlateCode s.cfg s.decodeMode c p d st = some v) ∨
      i = .writeChrRaw (v.toNat : Int) (p.val : Int)) →
    ∃ m : Memory,
      exec i s = .next { s.sendFailed (digitAddr (phys s.mirror p)) v with buf := m } ∧
      (Memory.read m (phys s.mirror p) = v ∨
        Memory.read m (phys s.mirror p) = Memory.read s.buf (phys s.mirror p)) ∧
      ∀ q : Pos, q ≠ phys s.mirror p → Memory.read m q = Memory.read s.buf q

/-- R180: after a successful WRITE_CHR_XLATE of a key of the selected table, the logical element holds the table's code, with
0x80 if the dot was set. -/
def Obligations.TranslationLaw : Prop :=
  ∀ (s : State) (c : Char8) (i : Pos) (d st : Bool) (v : Byte), s.live → s.answerAt 0 = .ok →
    (if s.decodeMode.getLsbD i.val then s.cfg.builtinCode c else s.cfg.extCode c) = some v →
    ∃ t, exec (.writeChrXlate c (i.val : Int) d st) s = .next t ∧
      t.logicalAt i = v ||| (if d then 0x80#8 else 0x00#8)

/-! ### Layout, strings, clearing -/

/-- R203: at most 8 entries, and an entry whose character is '.' has its dot flag set. -/
def Obligations.LayoutIsBounded : Prop :=
  ∀ cs : List Char8, (layout cs).length ≤ 8 ∧ ∀ e ∈ layout cs, e.char = 0x2E#8 → e.dot = true

/-- R201, R202, R203: what one more character does to the layout of a string with room left; a full buffer ends the scan at a
character other than '.'; and the dots that follow the character that filled the buffer merge at most once. -/
def Obligations.LayoutOfOneMoreCharacter : Prop :=
  ∀ (cs : List Char8) (c : Char8),
    ((layout cs).length < 8 →
      (c ≠ 0x2E#8 → layout (cs ++ [c]) = layout cs ++ [⟨c, false⟩]) ∧
      (layout cs = [] → layout (cs ++ [0x2E#8]) = [⟨0x2E#8, true⟩]) ∧
      (∀ es x, layout cs = es ++ [⟨x, true⟩] → layout (cs ++ [0x2E#8]) = es ++ [⟨x, true⟩, ⟨0x2E#8, true⟩]) ∧
      (∀ es x, layout cs = es ++ [⟨x, false⟩] → layout (cs ++ [0x2E#8]) = es ++ [⟨x, true⟩])) ∧
    ((layout cs).length = 8 → c ≠ 0x2E#8 → ∀ rest, layout (cs ++ c :: rest) = layout cs) ∧
    ((layout cs).length < 8 → (layout (cs ++ [c])).length = 8 → ∀ (n : Nat) (es : List Entry) (x : Char8) (d : Bool),
      layout (cs ++ [c]) = es ++ [⟨x, d⟩] →
      layout (cs ++ [c] ++ List.replicate (n + 1) 0x2E#8) = es ++ [⟨x, true⟩])

/-- R201, W9 of spec/95: a string without dots is laid out as its first 8 characters. -/
def Obligations.DotlessStringsAreTruncated : Prop :=
  ∀ cs : List Char8, (∀ c ∈ cs, c ≠ 0x2E#8) → layout cs = (cs.take 8).map fun c => ⟨c, false⟩

/-- R204, R205, R207: WRITE_STR that raises nothing. It emits exactly `min(len(layout(s)), max(0, 8 - start))` transactions,
entry k to the digit of logical position start + k, each with its buffer element; every other byte of the buffer and every
other field is as before. -/
def Obligations.WriteStrWritesItsEntries : Prop :=
  ∀ (s : State) (cs : List Char8) (start : Nat) (strict : Bool), s.live →
    s.accepts (min (layout cs).length (8 - start)) →
    (∀ (k : Nat) (e : Entry) (i : Pos), (layout cs)[k]? = some e → i.val = start + k →
      (xlateCode s.cfg s.decodeMode e.char i e.dot strict).isSome) →
    ∃ (m : Memory) (ts : List Transaction),
      exec (.writeStr cs (start : Int) strict) s = .next { s with
        buf := m, cs := if ts = [] then s.cs else .deasserted, transport := s.transport.drop ts.length,
        answers := s.answers ++ [.unit], trace := s.trace ++ ts } ∧
      ts.length = min (layout cs).length (8 - start) ∧
      (∀ (k : Nat) (e : Entry) (i : Pos), (layout cs)[k]? = some e → i.val = start + k →
        ∃ v, xlateCode s.cfg s.decodeMode e.char i e.dot strict = some v ∧
          ts[k]? = some ⟨0x01#8 + BitVec.ofNat 8 (phys s.mirror i).val, v⟩ ∧
          Memory.read m (phys s.mirror i) = v) ∧
      (∀ q : Pos, (∀ i : Pos, start ≤ i.val → i.val < start + (layout cs).length → q ≠ phys s.mirror i) →
        Memory.read m q = Memory.read s.buf q)

/-- R205, R236, R240: WRITE_STR whose entry k is the first that the table of its position does not hold, under `strict`. The
digit writes of the entries before it remain, and TranslationError names its character and position. -/
def Obligations.WriteStrStopsAtAnUnknownCharacter : Prop :=
  ∀ (s : State) (cs : List Char8) (start k : Nat) (e : Entry) (i : Pos), s.live → s.accepts k →
    (layout cs)[k]? = some e → i.val = start + k → xlateCode s.cfg s.decodeMode e.char i e.dot true = none →
    (∀ (j : Nat) (f : Entry) (n : Pos), j < k → (layout cs)[j]? = some f → n.val = start + j →
      (xlateCode s.cfg s.decodeMode f.char n f.dot true).isSome) →
    ∃ t, exec (.writeStr cs (start : Int) true) s = .next t ∧
      t.errlog = s.errlog ++ [.translationError] ∧ t.answers = s.answers ++ [.error (.translation e.char (i.val : Int))] ∧
      t.faulted = false ∧ (∃ ts, t.trace = s.trace ++ ts ∧ ts.length = k) ∧
      (∀ (j : Nat) (f : Entry) (n : Pos), j < k → (layout cs)[j]? = some f → n.val = start + j →
        some (t.logicalAt n) = xlateCode s.cfg s.decodeMode f.char n f.dot true) ∧
      (∀ n : Pos, n.val < start ∨ start + k ≤ n.val → t.logicalAt n = s.logicalAt n)

/-- R205, R234, R236, R240: WRITE_STR whose entry k is the first digit write that the transport fails (CLEAR: by its expansion).
The digit writes of the entries before it remain, TransportError names its transaction, its own element is the old or the
new value, and no element after it is touched. -/
def Obligations.WriteStrStopsAtATransportFailure : Prop :=
  ∀ (s : State) (cs : List Char8) (start k : Nat) (strict : Bool) (e : Entry) (i : Pos) (v : Byte), s.live →
    s.accepts k → s.answerAt k = .fail → (layout cs)[k]? = some e → i.val = start + k →
    xlateCode s.cfg s.decodeMode e.char i e.dot strict = some v →
    (∀ (j : Nat) (f : Entry) (n : Pos), j < k → (layout cs)[j]? = some f → n.val = start + j →
      (xlateCode s.cfg s.decodeMode f.char n f.dot strict).isSome) →
    ∃ t, exec (.writeStr cs (start : Int) strict) s = .next t ∧
      t.errlog = s.errlog ++ [.transportError] ∧
      t.answers = s.answers ++ [.error (.transport (digitAddr (phys s.mirror i)) v)] ∧
      t.faulted = true ∧ t.phase = s.phase ∧ (∃ ts, t.trace = s.trace ++ ts ∧ ts.length = k) ∧
      (t.logicalAt i = s.logicalAt i ∨ t.logicalAt i = v) ∧
      (∀ (j : Nat) (f : Entry) (n : Pos), j < k → (layout cs)[j]? = some f → n.val = start + j →
        some (t.logicalAt n) = xlateCode s.cfg s.decodeMode f.char n f.dot strict) ∧
      (∀ n : Pos, n.val < start ∨ start + k < n.val → t.logicalAt n = s.logicalAt n)

/-- R205, R206: where WRITE_STR and CLEAR write nothing, and where they raise BoundsError before any write. -/
def Obligations.WriteStrAndClearOutsideTheWindow : Prop :=
  ∀ (s : State) (cs : List Char8) (start length : Int) (strict : Bool), s.live →
    exec (.writeStr [] start strict) s = .next (s.answered .unit) ∧
    (8 ≤ start → exec (.writeStr cs start strict) s = .next (s.answered .unit)) ∧
    (start < 0 → cs ≠ [] → exec (.writeStr cs start strict) s = .next (s.errored (.bounds start))) ∧
    (length ≤ 0 → exec (.clear start length) s = .next (s.answered .unit)) ∧
    (8 ≤ start → exec (.clear start length) s = .next (s.answered .unit)) ∧
    (start < 0 → 0 < length → exec (.clear start length) s = .next (s.errored (.bounds start)))

/-- R206: CLEAR blanks positions start .. start + length - 1 within the window, each with the ' ' code of its own table, and
leaves every other byte and every other field as before. -/
def Obligations.ClearBlanksItsRange : Prop :=
  ∀ (s : State) (start length : Nat), s.live → s.accepts (min length (8 - start)) →
    ∃ (m : Memory) (ts : List Transaction),
      exec (.clear (start : Int) (length : Int)) s = .next { s with
        buf := m, cs := if ts = [] then s.cs else .deasserted, transport := s.transport.drop ts.length,
        answers := s.answers ++ [.unit], trace := s.trace ++ ts } ∧
      ts.length = min length (8 - start) ∧
      (∀ i : Pos, start ≤ i.val → i.val < start + length →
        ∃ v, (if s.decodeMode.getLsbD i.val then s.cfg.builtinCode 0x20#8 else s.cfg.extCode 0x20#8) = some v ∧
          ts[i.val - start]? = some ⟨0x01#8 + BitVec.ofNat 8 (phys s.mirror i).val, v⟩ ∧
          Memory.read m (phys s.mirror i) = v) ∧
      (∀ q : Pos, (∀ i : Pos, start ≤ i.val → i.val < start + length → q ≠ phys s.mirror i) →
        Memory.read m q = Memory.read s.buf q)

/-- R87, R206: CLEAR is the WRITE_STR of `max(length, 0)` spaces, in every state. -/
def Obligations.ClearIsItsExpansion : Prop :=
  ∀ (s : State) (start length : Int),
    exec (.clear start length) s = exec (.writeStr (List.replicate (max length 0).toNat 0x20#8) start false) s

/-! ### Register writes -/

/-- The MODEL'S CHOICE (log 8): a row of the wire table stepped on its own is one `WriteReg` to the row's address, taken or
failed, for any value, and leaves the digit buffer, the phase and every other field as they were. The spec gives the host no
such command: the block emits these transactions inside its commands only, and the statements about the commands say what
they do. -/
def Obligations.WireRowsEmitOneTransaction : Prop :=
  ∀ (s : State) (v : Byte) (i : Instr) (a : Byte), s.live →
    ((i = .wrNoop v ∧ a = 0x00#8) ∨ (i = .wrDigit0 v ∧ a = 0x01#8) ∨ (i = .wrDigit1 v ∧ a = 0x02#8) ∨
     (i = .wrDigit2 v ∧ a = 0x03#8) ∨ (i = .wrDigit3 v ∧ a = 0x04#8) ∨ (i = .wrDigit4 v ∧ a = 0x05#8) ∨
     (i = .wrDigit5 v ∧ a = 0x06#8) ∨ (i = .wrDigit6 v ∧ a = 0x07#8) ∨ (i = .wrDigit7 v ∧ a = 0x08#8) ∨
     (i = .wrDecodeMode v ∧ a = 0x09#8) ∨ (i = .wrIntensity v ∧ a = 0x0A#8) ∨ (i = .wrScanLimit v ∧ a = 0x0B#8) ∨
     (i = .wrShutdown v ∧ a = 0x0C#8) ∨ (i = .wrDisplayTest v ∧ a = 0x0F#8)) →
    (s.answerAt 0 = .ok → exec i s = .next { s with
      cs := .deasserted, trace := s.trace ++ [⟨a, v⟩], transport := s.transport.tail }) ∧
    (s.answerAt 0 = .fail → exec i s = .next (s.sendFailed a v))
end

