-- ==== Sys2Proof/Laws/State.lean ====
section
/-! SUPPORT. One lemma per field per state update, so that no later proof unfolds a record update. -/

namespace Sys2Proof.Machine

open Sys2Proof

@[simp] theorem raise_cfg (e : Error) (s : State) : (raise e s).cfg = s.cfg := rfl
@[simp] theorem raise_decodeMode (e : Error) (s : State) : (raise e s).decodeMode = s.decodeMode := rfl
@[simp] theorem raise_intensity (e : Error) (s : State) : (raise e s).intensity = s.intensity := rfl
@[simp] theorem raise_mirror (e : Error) (s : State) : (raise e s).mirror = s.mirror := rfl
@[simp] theorem raise_buf (e : Error) (s : State) : (raise e s).buf = s.buf := rfl
@[simp] theorem raise_phase (e : Error) (s : State) : (raise e s).phase = s.phase := rfl
@[simp] theorem raise_cs (e : Error) (s : State) : (raise e s).cs = s.cs := rfl
@[simp] theorem raise_trace (e : Error) (s : State) : (raise e s).trace = s.trace := rfl
@[simp] theorem raise_errlog (e : Error) (s : State) : (raise e s).errlog = s.errlog ++ [e.code] := rfl
@[simp] theorem raise_faulted (e : Error) (s : State) : (raise e s).faulted = s.faulted := rfl
@[simp] theorem raise_answers (e : Error) (s : State) : (raise e s).answers = s.answers ++ [.error e] := rfl
@[simp] theorem raise_program (e : Error) (s : State) : (raise e s).program = s.program := rfl
@[simp] theorem raise_pc (e : Error) (s : State) : (raise e s).pc = s.pc := rfl
@[simp] theorem raise_ended (e : Error) (s : State) : (raise e s).ended = s.ended := rfl
@[simp] theorem raise_port (e : Error) (s : State) : (raise e s).port = s.port := rfl
@[simp] theorem raise_transport (e : Error) (s : State) : (raise e s).transport = s.transport := rfl
@[simp] theorem raise_draws (e : Error) (s : State) : (raise e s).draws = s.draws := rfl

@[simp] theorem respond_cfg (a : Answer) (s : State) : (respond a s).cfg = s.cfg := rfl
@[simp] theorem respond_decodeMode (a : Answer) (s : State) : (respond a s).decodeMode = s.decodeMode := rfl
@[simp] theorem respond_intensity (a : Answer) (s : State) : (respond a s).intensity = s.intensity := rfl
@[simp] theorem respond_mirror (a : Answer) (s : State) : (respond a s).mirror = s.mirror := rfl
@[simp] theorem respond_buf (a : Answer) (s : State) : (respond a s).buf = s.buf := rfl
@[simp] theorem respond_phase (a : Answer) (s : State) : (respond a s).phase = s.phase := rfl
@[simp] theorem respond_cs (a : Answer) (s : State) : (respond a s).cs = s.cs := rfl
@[simp] theorem respond_trace (a : Answer) (s : State) : (respond a s).trace = s.trace := rfl
@[simp] theorem respond_errlog (a : Answer) (s : State) : (respond a s).errlog = s.errlog := rfl
@[simp] theorem respond_faulted (a : Answer) (s : State) : (respond a s).faulted = s.faulted := rfl
@[simp] theorem respond_answers (a : Answer) (s : State) : (respond a s).answers = s.answers ++ [a] := rfl
@[simp] theorem respond_program (a : Answer) (s : State) : (respond a s).program = s.program := rfl
@[simp] theorem respond_pc (a : Answer) (s : State) : (respond a s).pc = s.pc := rfl
@[simp] theorem respond_ended (a : Answer) (s : State) : (respond a s).ended = s.ended := rfl
@[simp] theorem respond_port (a : Answer) (s : State) : (respond a s).port = s.port := rfl
@[simp] theorem respond_transport (a : Answer) (s : State) : (respond a s).transport = s.transport := rfl
@[simp] theorem respond_draws (a : Answer) (s : State) : (respond a s).draws = s.draws := rfl

@[simp] theorem assertCs_cfg (s : State) : (assertCs s).cfg = s.cfg := rfl
@[simp] theorem assertCs_decodeMode (s : State) : (assertCs s).decodeMode = s.decodeMode := rfl
@[simp] theorem assertCs_intensity (s : State) : (assertCs s).intensity = s.intensity := rfl
@[simp] theorem assertCs_mirror (s : State) : (assertCs s).mirror = s.mirror := rfl
@[simp] theorem assertCs_buf (s : State) : (assertCs s).buf = s.buf := rfl
@[simp] theorem assertCs_phase (s : State) : (assertCs s).phase = s.phase := rfl
@[simp] theorem assertCs_cs (s : State) : (assertCs s).cs = .asserted := rfl
@[simp] theorem assertCs_trace (s : State) : (assertCs s).trace = s.trace := rfl
@[simp] theorem assertCs_errlog (s : State) : (assertCs s).errlog = s.errlog := rfl
@[simp] theorem assertCs_faulted (s : State) : (assertCs s).faulted = s.faulted := rfl
@[simp] theorem assertCs_answers (s : State) : (assertCs s).answers = s.answers := rfl
@[simp] theorem assertCs_program (s : State) : (assertCs s).program = s.program := rfl
@[simp] theorem assertCs_pc (s : State) : (assertCs s).pc = s.pc := rfl
@[simp] theorem assertCs_ended (s : State) : (assertCs s).ended = s.ended := rfl
@[simp] theorem assertCs_port (s : State) : (assertCs s).port = s.port := rfl
@[simp] theorem assertCs_transport (s : State) : (assertCs s).transport = s.transport := rfl
@[simp] theorem assertCs_draws (s : State) : (assertCs s).draws = s.draws := rfl

@[simp] theorem accepted_cfg (a v : Byte) (s : State) : (accepted a v s).cfg = s.cfg := rfl
@[simp] theorem accepted_decodeMode (a v : Byte) (s : State) : (accepted a v s).decodeMode = s.decodeMode := rfl
@[simp] theorem accepted_intensity (a v : Byte) (s : State) : (accepted a v s).intensity = s.intensity := rfl
@[simp] theorem accepted_mirror (a v : Byte) (s : State) : (accepted a v s).mirror = s.mirror := rfl
@[simp] theorem accepted_buf (a v : Byte) (s : State) : (accepted a v s).buf = s.buf := rfl
@[simp] theorem accepted_phase (a v : Byte) (s : State) : (accepted a v s).phase = s.phase := rfl
@[simp] theorem accepted_cs (a v : Byte) (s : State) : (accepted a v s).cs = .deasserted := rfl
@[simp] theorem accepted_trace (a v : Byte) (s : State) : (accepted a v s).trace = s.trace ++ [⟨a, v⟩] := rfl
@[simp] theorem accepted_errlog (a v : Byte) (s : State) : (accepted a v s).errlog = s.errlog := rfl
@[simp] theorem accepted_faulted (a v : Byte) (s : State) : (accepted a v s).faulted = s.faulted := rfl
@[simp] theorem accepted_answers (a v : Byte) (s : State) : (accepted a v s).answers = s.answers := rfl
@[simp] theorem accepted_program (a v : Byte) (s : State) : (accepted a v s).program = s.program := rfl
@[simp] theorem accepted_pc (a v : Byte) (s : State) : (accepted a v s).pc = s.pc := rfl
@[simp] theorem accepted_ended (a v : Byte) (s : State) : (accepted a v s).ended = s.ended := rfl
@[simp] theorem accepted_port (a v : Byte) (s : State) : (accepted a v s).port = s.port := rfl
@[simp] theorem accepted_transport (a v : Byte) (s : State) : (accepted a v s).transport = s.transport.tail := rfl
@[simp] theorem accepted_draws (a v : Byte) (s : State) : (accepted a v s).draws = s.draws := rfl

@[simp] theorem failed_cfg (a v : Byte) (s : State) : (failed a v s).cfg = s.cfg := rfl
@[simp] theorem failed_decodeMode (a v : Byte) (s : State) : (failed a v s).decodeMode = s.decodeMode := rfl
@[simp] theorem failed_intensity (a v : Byte) (s : State) : (failed a v s).intensity = s.intensity := rfl
@[simp] theorem failed_mirror (a v : Byte) (s : State) : (failed a v s).mirror = s.mirror := rfl
@[simp] theorem failed_buf (a v : Byte) (s : State) : (failed a v s).buf = s.buf := rfl
@[simp] theorem failed_phase (a v : Byte) (s : State) : (failed a v s).phase = s.phase := rfl
@[simp] theorem failed_cs (a v : Byte) (s : State) : (failed a v s).cs = csAfterFailure s.draws := rfl
@[simp] theorem failed_trace (a v : Byte) (s : State) : (failed a v s).trace = s.trace := rfl
@[simp] theorem failed_errlog (a v : Byte) (s : State) : (failed a v s).errlog = s.errlog ++ [.transportError] := rfl
@[simp] theorem failed_faulted (a v : Byte) (s : State) : (failed a v s).faulted = true := rfl
@[simp] theorem failed_answers (a v : Byte) (s : State) : (failed a v s).answers = s.answers ++ [.error (.transport a v)] := rfl
@[simp] theorem failed_program (a v : Byte) (s : State) : (failed a v s).program = s.program := rfl
@[simp] theorem failed_pc (a v : Byte) (s : State) : (failed a v s).pc = s.pc := rfl
@[simp] theorem failed_ended (a v : Byte) (s : State) : (failed a v s).ended = s.ended := rfl
@[simp] theorem failed_port (a v : Byte) (s : State) : (failed a v s).port = s.port := rfl
@[simp] theorem failed_transport (a v : Byte) (s : State) : (failed a v s).transport = s.transport.tail := rfl
@[simp] theorem failed_draws (a v : Byte) (s : State) : (failed a v s).draws = s.draws + 1 := rfl

@[simp] theorem issue_cfg (prog : List CommandRecord) (s : State) : (State.issue prog s).cfg = s.cfg := rfl
@[simp] theorem issue_decodeMode (prog : List CommandRecord) (s : State) : (State.issue prog s).decodeMode = s.decodeMode := rfl
@[simp] theorem issue_intensity (prog : List CommandRecord) (s : State) : (State.issue prog s).intensity = s.intensity := rfl
@[simp] theorem issue_mirror (prog : List CommandRecord) (s : State) : (State.issue prog s).mirror = s.mirror := rfl
@[simp] theorem issue_buf (prog : List CommandRecord) (s : State) : (State.issue prog s).buf = s.buf := rfl
@[simp] theorem issue_phase (prog : List CommandRecord) (s : State) : (State.issue prog s).phase = s.phase := rfl
@[simp] theorem issue_cs (prog : List CommandRecord) (s : State) : (State.issue prog s).cs = s.cs := rfl
@[simp] theorem issue_trace (prog : List CommandRecord) (s : State) : (State.issue prog s).trace = s.trace := rfl
@[simp] theorem issue_errlog (prog : List CommandRecord) (s : State) : (State.issue prog s).errlog = s.errlog := rfl
@[simp] theorem issue_faulted (prog : List CommandRecord) (s : State) : (State.issue prog s).faulted = s.faulted := rfl
@[simp] theorem issue_answers (prog : List CommandRecord) (s : State) : (State.issue prog s).answers = s.answers := rfl
@[simp] theorem issue_program (prog : List CommandRecord) (s : State) : (State.issue prog s).program = prog := rfl
@[simp] theorem issue_pc (prog : List CommandRecord) (s : State) : (State.issue prog s).pc = 0 := rfl
@[simp] theorem issue_ended (prog : List CommandRecord) (s : State) : (State.issue prog s).ended = false := rfl
@[simp] theorem issue_port (prog : List CommandRecord) (s : State) : (State.issue prog s).port = s.port := rfl
@[simp] theorem issue_transport (prog : List CommandRecord) (s : State) : (State.issue prog s).transport = s.transport := rfl
@[simp] theorem issue_draws (prog : List CommandRecord) (s : State) : (State.issue prog s).draws = s.draws := rfl

@[simp] theorem raise_bufAt (e : Error) (s : State) (p : Pos) : (raise e s).bufAt p = s.bufAt p := rfl
@[simp] theorem respond_bufAt (a : Answer) (s : State) (p : Pos) : (respond a s).bufAt p = s.bufAt p := rfl
@[simp] theorem accepted_bufAt (a v : Byte) (s : State) (p : Pos) : (accepted a v s).bufAt p = s.bufAt p := rfl
@[simp] theorem failed_bufAt (a v : Byte) (s : State) (p : Pos) : (failed a v s).bufAt p = s.bufAt p := rfl

@[simp] theorem Flow.state_go (s : State) : (Flow.go s).state = s := rfl
@[simp] theorem Flow.state_stop (s : State) : (Flow.stop s).state = s := rfl
@[simp] theorem Flow.andThen_go (s : State) (f : State → Flow) : (Flow.go s).andThen f = f s := rfl
@[simp] theorem Flow.andThen_stop (s : State) (f : State → Flow) : (Flow.stop s).andThen f = .stop s := rfl

theorem raise_eq_errored (e : Error) (s : State) : raise e s = s.errored e := rfl
theorem respond_eq_answered (a : Answer) (s : State) : respond a s = s.answered a := rfl
theorem accepted_eq_sent (a v : Byte) (s : State) : accepted a v (assertCs s) = s.sent a v := rfl
theorem failed_eq_sendFailed (a v : Byte) (s : State) : failed a v (assertCs s) = s.sendFailed a v := rfl

end Sys2Proof.Machine
end

