-- ==== Sys2Proof/Laws/Memory.lean ====
section
/-! SUPPORT. The digit buffer: read after write, and the buffer that every read determines. -/

namespace Sys2Proof.Machine

open Sys2Proof

theorem Memory.read_write (m : Memory) (p q : Pos) (v : Byte) :
    Memory.read (Memory.write m p v) q = if p = q then v else Memory.read m q := by
  simp only [Memory.read, Memory.write, Vector.getElem_set, Fin.ext_iff]

@[simp] theorem Memory.read_write_same (m : Memory) (p : Pos) (v : Byte) : Memory.read (Memory.write m p v) p = v := by
  simp [Memory.read_write]

@[simp] theorem Memory.read_write_other (m : Memory) (p q : Pos) (v : Byte) (h : q ≠ p) :
    Memory.read (Memory.write m p v) q = Memory.read m q := by simp [Memory.read_write, h.symm]

/-- Two buffers that agree at every position are equal. -/
theorem Memory.ext_read {m n : Memory} (h : ∀ p : Pos, Memory.read m p = Memory.read n p) : m = n :=
  Vector.ext fun i hi => h ⟨i, hi⟩

@[simp] theorem State.bufAt_write_same (s : State) (p : Pos) (v : Byte) :
    State.bufAt { s with buf := Memory.write s.buf p v } p = v := by simp [State.bufAt]

@[simp] theorem State.bufAt_write_other (s : State) (p q : Pos) (v : Byte) (h : q ≠ p) :
    State.bufAt { s with buf := Memory.write s.buf p v } q = s.bufAt q := by simp [State.bufAt, h]

end Sys2Proof.Machine
end

