-- ==== Sys2Proof/Laws/Ops.lean ====
section
/-! SUPPORT. What each shared operation can do, said once: `writeReg`, `writePos`, `andThen`, `runCommand`, `runWrite`. -/

namespace Sys2Proof.Machine

open Sys2Proof

theorem State.answerAt_tail (s t : State) (h : t.transport = s.transport.tail) (k : Nat) :
    t.answerAt k = s.answerAt (k + 1) := by
  simp [State.answerAt, h]

/-- `writeReg` where the transport takes the transaction. -/
theorem writeReg_ok {a v : Byte} {s : State} (h : s.answerAt 0 = .ok) : writeReg a v s = .go (s.sent a v) := by
  have h' : (assertCs s).answerAt 0 = .ok := h
  simp only [writeReg, h']
  rfl

/-- `writeReg` where the transport fails the transaction. -/
theorem writeReg_fail {a v : Byte} {s : State} (h : s.answerAt 0 = .fail) :
    writeReg a v s = .stop (s.sendFailed a v) := by
  have h' : (assertCs s).answerAt 0 = .fail := h
  simp only [writeReg, h']
  rfl

/-- Everything `writeReg` can do. -/
theorem writeReg_cases (a v : Byte) (s : State) :
    (s.answerAt 0 = .ok ∧ writeReg a v s = .go (s.sent a v)) ∨
    (s.answerAt 0 = .fail ∧ writeReg a v s = .stop (s.sendFailed a v)) := by
  cases h : s.answerAt 0 with
  | ok => exact .inl ⟨rfl, writeReg_ok h⟩
  | fail => exact .inr ⟨rfl, writeReg_fail h⟩

/-- The state of a digit write that the transport takes. -/
abbrev State.wrote (s : State) (p : Pos) (v : Byte) : State :=
  { s.sent (digitAddr p) v with buf := Memory.write s.buf p v }

/-- The state of a digit write that the transport fails: the element holds the old or the new value (R234). -/
abbrev State.wroteFailed (s : State) (p : Pos) (v : Byte) : State :=
  { s.sendFailed (digitAddr p) v with
    buf := if Config.failedDigitWriteLands s.draws then Memory.write s.buf p v else s.buf }

theorem writePos_ok {p : Pos} {v : Byte} {s : State} (h : s.answerAt 0 = .ok) :
    writePos p v s = .go (s.wrote p v) := by
  have h' : State.answerAt { s with buf := Memory.write s.buf p v } 0 = .ok := h
  simp only [writePos, writeReg_ok h']

theorem writePos_fail {p : Pos} {v : Byte} {s : State} (h : s.answerAt 0 = .fail) :
    writePos p v s = .stop (s.wroteFailed p v) := by
  have h' : State.answerAt { s with buf := Memory.write s.buf p v } 0 = .fail := h
  simp only [writePos, writeReg_fail h']

/-- Everything a digit write can do. -/
theorem writePos_cases (p : Pos) (v : Byte) (s : State) :
    (s.answerAt 0 = .ok ∧ writePos p v s = .go (s.wrote p v)) ∨
    (s.answerAt 0 = .fail ∧ writePos p v s = .stop (s.wroteFailed p v)) := by
  cases h : s.answerAt 0 with
  | ok => exact .inl ⟨rfl, writePos_ok h⟩
  | fail => exact .inr ⟨rfl, writePos_fail h⟩

theorem andThen_eq_go {x : Flow} {f : State → Flow} {t : State} (h : x.andThen f = .go t) :
    ∃ m, x = .go m ∧ f m = .go t := by
  cases x with
  | go m => exact ⟨m, rfl, h⟩
  | stop m => cases h

theorem andThen_eq_stop {x : Flow} {f : State → Flow} {t : State} (h : x.andThen f = .stop t) :
    x = .stop t ∨ ∃ m, x = .go m ∧ f m = .stop t := by
  cases x with
  | go m => exact .inr ⟨m, rfl, h⟩
  | stop m => exact .inl h

/-- A command of a live block whose body completes. -/
theorem runCommand_go {body : State → Flow} {answer : State → Answer} {s t : State} (hl : s.live) (h : body s = .go t) :
    runCommand body answer s = .next (t.answered (answer t)) := by
  simp [runCommand, hl, h, respond]

/-- A command of a live block whose body raises. -/
theorem runCommand_stop {body : State → Flow} {answer : State → Answer} {s t : State} (hl : s.live)
    (h : body s = .stop t) : runCommand body answer s = .next t := by
  simp [runCommand, hl, h]

/-- A command of a faulted block has no meaning (R237). -/
theorem runCommand_faulted {body : State → Flow} {answer : State → Answer} {s : State} (h : s.faulted = true) :
    runCommand body answer s = .fault .blockFaulted := by
  simp [runCommand, h]

/-- Everything a command can do where it answers a next state. -/
theorem runCommand_cases {body : State → Flow} {answer : State → Answer} {s t : State}
    (h : runCommand body answer s = .next t) :
    s.live ∧ ((∃ m, body s = .go m ∧ t = m.answered (answer m)) ∨ body s = .stop t) := by
  unfold runCommand at h
  split at h
  · cases h
  · rename_i hl
    refine ⟨by simpa using hl, ?_⟩
    cases hb : body s with
    | go m => rw [hb] at h; cases h; exact .inl ⟨m, rfl, rfl⟩
    | stop m => rw [hb] at h; cases h; exact .inr rfl

theorem runWrite_faulted {a v : Byte} {s : State} (h : s.faulted = true) : runWrite a v s = .fault .blockFaulted := by
  simp [runWrite, h]

/-- Everything a bare register write can do where it answers a next state. -/
theorem runWrite_cases {a v : Byte} {s t : State} (h : runWrite a v s = .next t) :
    s.live ∧ ((s.answerAt 0 = .ok ∧ t = s.sent a v) ∨ (s.answerAt 0 = .fail ∧ t = s.sendFailed a v)) := by
  unfold runWrite at h
  split at h
  · cases h
  · rename_i hl
    refine ⟨by simpa using hl, ?_⟩
    rcases writeReg_cases a v s with ⟨ha, hw⟩ | ⟨ha, hw⟩
    · rw [hw] at h; cases h; exact .inl ⟨ha, rfl⟩
    · rw [hw] at h; cases h; exact .inr ⟨ha, rfl⟩

end Sys2Proof.Machine
end

