-- ==== Sys2Proof/Laws/Frame.lean ====
section
/-! SUPPORT. What a command body can do, said once for every body: `Reaches` (it went on) and `Raises` (it ended with an
error). The frame of every command and the bookkeeping of errors follow from these two. -/

namespace Sys2Proof.Machine

open Sys2Proof

theorem lastWrite_append (ts us : List Transaction) (a : Byte) :
    lastWrite (ts ++ us) a = (lastWrite us a).or (lastWrite ts a) := by
  induction us using List.reverseRecOn with
  | nil => simp [lastWrite]
  | append_singleton us x ih =>
    simp only [lastWrite, ← List.append_assoc, List.foldl_append, List.foldl_cons, List.foldl_nil] at ih ⊢
    split
    · rfl
    · exact ih

/-- The digit buffer of `t` is that of `s` after the transactions `ts` (R61, R65): an element whose register was written holds
the last value sent, the others are as they were. -/
abbrev Follows (ts : List Transaction) (s t : State) : Prop :=
  ∀ p : Pos, t.bufAt p = (lastWrite ts (digitAddr p)).getD (s.bufAt p)

theorem Follows.trans {ts us : List Transaction} {s t u : State} (h1 : Follows ts s t) (h2 : Follows us t u) :
    Follows (ts ++ us) s u := fun p => by
  rw [h2 p, h1 p, lastWrite_append]
  cases lastWrite us (digitAddr p) <;> rfl

theorem digitAddr_inj {p q : Pos} (h : digitAddr p = digitAddr q) : p = q := by
  revert p q
  decide

/-- `t` is reached from `s` by `n` transactions at most, none of them failed, and no error. -/
structure Reaches (n : Nat) (s t : State) : Prop where
  cfg : t.cfg = s.cfg
  mirror : t.mirror = s.mirror
  program : t.program = s.program
  pc : t.pc = s.pc
  ended : t.ended = s.ended
  port : t.port = s.port
  errlog : t.errlog = s.errlog
  answers : t.answers = s.answers
  faulted : t.faulted = s.faulted
  draws : t.draws = s.draws
  trace : ∃ ts, t.trace = s.trace ++ ts ∧ ts.length ≤ n ∧ (∀ x ∈ ts, x.emittable = true) ∧
    t.transport = s.transport.drop ts.length ∧ Follows ts s t
  csIdle : s.cs = .deasserted → t.cs = .deasserted

/-- `t` is where a command that started in `s` ended with an error, after `n` transactions at most. -/
structure Raises (n : Nat) (s t : State) : Prop where
  cfg : t.cfg = s.cfg
  mirror : t.mirror = s.mirror
  program : t.program = s.program
  pc : t.pc = s.pc
  ended : t.ended = s.ended
  port : t.port = s.port
  phase : t.phase = s.phase
  error : ∃ e : Error, t.errlog = s.errlog ++ [e.code] ∧ t.answers = s.answers ++ [.error e] ∧
    ((e.code = .transportError ∧ t.faulted = true) ∨
     (e.code ≠ .transportError ∧ t.faulted = s.faulted ∧ (s.cs = .deasserted → t.cs = .deasserted)))
  trace : ∃ ts, t.trace = s.trace ++ ts ∧ ts.length ≤ n ∧ (∀ x ∈ ts, x.emittable = true) ∧
    (t.faulted = false → Follows ts s t)

/-- Everything a command body that starts in `s` can do. -/
structure Flow.From (x : Flow) (n : Nat) (s : State) : Prop where
  go : ∀ t, x = .go t → Reaches n s t
  stop : ∀ t, x = .stop t → Raises n s t

theorem Reaches.refl (s : State) : Reaches 0 s s :=
  ⟨rfl, rfl, rfl, rfl, rfl, rfl, rfl, rfl, rfl, rfl, ⟨[], by simp, by simp, by simp, rfl, fun _ => rfl⟩, id⟩

theorem Reaches.mono {n m : Nat} {s t : State} (h : Reaches n s t) (hnm : n ≤ m) : Reaches m s t := by
  obtain ⟨ts, h1, h2, h3⟩ := h.trace
  exact { h with trace := ⟨ts, h1, by omega, h3⟩ }

theorem Raises.mono {n m : Nat} {s t : State} (h : Raises n s t) (hnm : n ≤ m) : Raises m s t := by
  obtain ⟨ts, h1, h2, h3⟩ := h.trace
  exact { h with trace := ⟨ts, h1, by omega, h3⟩ }

theorem Flow.From.mono {x : Flow} {n m : Nat} {s : State} (h : x.From n s) (hnm : n ≤ m) : x.From m s :=
  ⟨fun t ht => (h.go t ht).mono hnm, fun t ht => (h.stop t ht).mono hnm⟩

theorem Reaches.trans {n m : Nat} {s t u : State} (h1 : Reaches n s t) (h2 : Reaches m t u) : Reaches (n + m) s u := by
  obtain ⟨ts, e1, l1, p1, d1, f1⟩ := h1.trace
  obtain ⟨us, e2, l2, p2, d2, f2⟩ := h2.trace
  refine ⟨h2.cfg.trans h1.cfg, h2.mirror.trans h1.mirror, h2.program.trans h1.program, h2.pc.trans h1.pc,
    h2.ended.trans h1.ended, h2.port.trans h1.port, h2.errlog.trans h1.errlog, h2.answers.trans h1.answers,
    h2.faulted.trans h1.faulted, h2.draws.trans h1.draws, ⟨ts ++ us, by simp [e2, e1], by simp; omega, ?_, ?_, f1.trans f2⟩,
    h2.csIdle ∘ h1.csIdle⟩
  · intro x hx
    rcases List.mem_append.1 hx with hx | hx
    · exact p1 x hx
    · exact p2 x hx
  · rw [d2, d1, List.drop_drop, List.length_append]

theorem Reaches.raises {n m : Nat} {s t u : State} (h1 : Reaches n s t) (hp : t.phase = s.phase) (h2 : Raises m t u) :
    Raises (n + m) s u := by
  obtain ⟨ts, e1, l1, p1, -, f1⟩ := h1.trace
  obtain ⟨us, e2, l2, p2, f2⟩ := h2.trace
  obtain ⟨e, he, ha, hf⟩ := h2.error
  refine ⟨h2.cfg.trans h1.cfg, h2.mirror.trans h1.mirror, h2.program.trans h1.program, h2.pc.trans h1.pc,
    h2.ended.trans h1.ended, h2.port.trans h1.port, h2.phase.trans hp,
    ⟨e, by rw [he, h1.errlog], by rw [ha, h1.answers], ?_⟩, ⟨ts ++ us, by simp [e2, e1], by simp; omega, ?_,
      fun hf => f1.trans (f2 hf)⟩⟩
  · rcases hf with hf | ⟨ha, hb, hc⟩
    · exact .inl hf
    · exact .inr ⟨ha, hb.trans h1.faulted, hc ∘ h1.csIdle⟩
  · intro x hx
    rcases List.mem_append.1 hx with hx | hx
    · exact p1 x hx
    · exact p2 x hx

/-- Sequencing: what follows starts where the first part went on, with the phase untouched. -/
theorem Flow.From.andThen {x : Flow} {f : State → Flow} {n m : Nat} {s : State} (hx : x.From n s)
    (hp : ∀ t, x = .go t → t.phase = s.phase) (hf : ∀ t, x = .go t → (f t).From m t) :
    (x.andThen f).From (n + m) s := by
  refine ⟨fun t ht => ?_, fun t ht => ?_⟩
  · obtain ⟨u, hu, hfu⟩ := andThen_eq_go ht
    exact (hx.go u hu).trans ((hf u hu).go t hfu)
  · rcases andThen_eq_stop ht with h | ⟨u, hu, hfu⟩
    · exact (hx.stop t h).mono (by omega)
    · exact (hx.go u hu).raises (hp u hu) ((hf u hu).stop t hfu)

theorem go_from (s : State) : (Flow.go s).From 0 s :=
  ⟨fun t ht => by cases ht; exact Reaches.refl s, fun t ht => by cases ht⟩

theorem setPhase_from (ph : Phase) (s : State) : (setPhase ph s).From 0 s :=
  ⟨fun t ht => by cases ht; exact ⟨rfl, rfl, rfl, rfl, rfl, rfl, rfl, rfl, rfl, rfl, ⟨[], by simp, by simp, by simp, rfl, fun _ => rfl⟩, id⟩,
   fun t ht => by cases ht⟩

/-- A register that is no digit's. -/
abbrev NoDigit (a : Byte) : Prop := ∀ p : Pos, a ≠ digitAddr p

theorem writeReg_from {a v : Byte} (he : Transaction.emittable ⟨a, v⟩ = true) (hd : NoDigit a) (s : State) :
    (writeReg a v s).From 1 s := by
  rcases writeReg_cases a v s with ⟨-, h⟩ | ⟨-, h⟩
  · rw [h]
    refine ⟨fun t ht => ?_, fun t ht => by cases ht⟩
    cases ht
    exact ⟨rfl, rfl, rfl, rfl, rfl, rfl, rfl, rfl, rfl, rfl, 
      ⟨[⟨a, v⟩], rfl, by simp, by simp [he], by simp, fun p => by simp [lastWrite, hd p, State.bufAt]⟩, fun _ => rfl⟩
  · rw [h]
    refine ⟨fun t ht => (by cases ht), fun t ht => ?_⟩
    cases ht
    exact ⟨rfl, rfl, rfl, rfl, rfl, rfl, rfl, ⟨.transport a v, rfl, rfl, .inl ⟨rfl, rfl⟩⟩,
      ⟨[], by simp⟩⟩

theorem digit_emittable (p : Pos) (v : Byte) : Transaction.emittable ⟨digitAddr p, v⟩ = true := by
  match p with
  | 0 | 1 | 2 | 3 | 4 | 5 | 6 | 7 => rfl

theorem writePos_from (p : Pos) (v : Byte) (s : State) : (writePos p v s).From 1 s := by
  rcases writePos_cases p v s with ⟨-, h⟩ | ⟨-, h⟩
  · rw [h]
    refine ⟨fun t ht => ?_, fun t ht => by cases ht⟩
    cases ht
    refine ⟨rfl, rfl, rfl, rfl, rfl, rfl, rfl, rfl, rfl, rfl,
      ⟨[⟨digitAddr p, v⟩], rfl, by simp, by simp [digit_emittable], by simp, fun q => ?_⟩, fun _ => rfl⟩
    by_cases hq : p = q
    · subst hq
      simp [lastWrite]
    · have ha : digitAddr p ≠ digitAddr q := fun h => hq (digitAddr_inj h)
      simp [lastWrite, ha, Ne.symm hq, State.bufAt]
  · rw [h]
    refine ⟨fun t ht => (by cases ht), fun t ht => ?_⟩
    cases ht
    exact ⟨rfl, rfl, rfl, rfl, rfl, rfl, rfl, ⟨.transport (digitAddr p) v, rfl, rfl, .inl ⟨rfl, rfl⟩⟩,
      ⟨[], by simp⟩⟩

theorem writePos_phase {p : Pos} {v : Byte} {s t : State} (h : writePos p v s = .go t) : t.phase = s.phase := by
  rcases writePos_cases p v s with ⟨-, e⟩ | ⟨-, e⟩ <;> rw [e] at h <;> cases h
  rfl

theorem writeReg_phase {a v : Byte} {s t : State} (h : writeReg a v s = .go t) : t.phase = s.phase := by
  rcases writeReg_cases a v s with ⟨-, e⟩ | ⟨-, e⟩ <;> rw [e] at h <;> cases h
  rfl

theorem raiseNow_from {e : Error} (he : e.code ≠ .transportError) (s : State) : (raiseNow e s).From 0 s :=
  ⟨fun t ht => (by cases ht), fun t ht => by
    cases ht
    exact ⟨rfl, rfl, rfl, rfl, rfl, rfl, rfl, ⟨e, rfl, rfl, .inr ⟨he, rfl, id⟩⟩,
      ⟨[], by simp, by simp, by simp, fun _ _ => rfl⟩⟩⟩

theorem writeXlate_from (c : Char8) (index : Int) (dot strict : Bool) (s : State) :
    (writeXlate c index dot strict s).From 1 s := by
  unfold writeXlate
  split
  · exact (raiseNow_from (by simp [Error.code]) s).mono (by omega)
  · split
    · exact (raiseNow_from (by simp [Error.code]) s).mono (by omega)
    · exact writePos_from _ _ s

theorem writeXlate_phase {c : Char8} {index : Int} {dot strict : Bool} {s t : State}
    (h : writeXlate c index dot strict s = .go t) : t.phase = s.phase := by
  unfold writeXlate at h
  split at h
  · cases h
  · split at h
    · cases h
    · exact writePos_phase h

theorem writeRaw_from (value index : Int) (s : State) : (writeRaw value index s).From 1 s := by
  unfold writeRaw
  split
  · exact (raiseNow_from (by simp [Error.code]) s).mono (by omega)
  · split
    · exact (raiseNow_from (by simp [Error.code]) s).mono (by omega)
    · exact writePos_from _ _ s

theorem emitEntries_from (es : List Entry) (pos : Int) (strict : Bool) (s : State) :
    (emitEntries es pos strict s).From es.length s := by
  induction es generalizing pos s with
  | nil => exact go_from s
  | cons e es ih =>
    unfold emitEntries
    split
    · exact (go_from s).mono (by omega)
    · rw [List.length_cons, Nat.add_comm]
      exact (writeXlate_from _ _ _ _ s).andThen (fun t => writeXlate_phase) fun t _ => ih (pos + 1) t

theorem clearDigits_from (ps : List Pos) (s : State) : (clearDigits ps s).From ps.length s := by
  induction ps generalizing s with
  | nil => exact go_from s
  | cons p ps ih =>
    rw [List.length_cons, Nat.add_comm]
    exact (writePos_from p 0 s).andThen (fun t => writePos_phase) fun t _ => ih t

theorem clearDigits_phase {ps : List Pos} {s t : State} (h : clearDigits ps s = .go t) : t.phase = s.phase := by
  induction ps generalizing s with
  | nil => cases h; rfl
  | cons p ps ih =>
    obtain ⟨u, hu, h⟩ := andThen_eq_go h
    exact (ih h).trans (writePos_phase hu)

theorem decodeMode_emittable (v : Byte) : Transaction.emittable ⟨0x09#8, v⟩ = true := rfl

theorem intensity_emittable (v : Nibble) : Transaction.emittable ⟨0x0A#8, zext8 v⟩ = true := by
  show decide (zext8 v ≤ 0x0F#8) = true
  revert v; decide

theorem writeDecodeMode_from (s : State) : (writeDecodeMode s).From 1 s := writeReg_from (decodeMode_emittable _) (by decide) s

theorem writeIntensity_from (s : State) : (writeIntensity s).From 1 s := writeReg_from (intensity_emittable _) (by decide) s

theorem writeShutdown_on_from (s : State) : (writeShutdown 0x01#8 s).From 1 s := writeReg_from (by decide) (by decide) s

theorem writeShutdown_off_from (s : State) : (writeShutdown 0x00#8 s).From 1 s := writeReg_from (by decide) (by decide) s

theorem initBody_from (s : State) : (initBody s).From (s.cfg.initOrder.length + 6) s := by
  have h : (initBody s).From (1 + (s.cfg.initOrder.length + (1 + (1 + (1 + (1 + (1 + 0))))))) s := by
    refine (writeShutdown_off_from s).andThen (fun t => writeReg_phase) fun t ht => ?_
    rw [← ((writeShutdown_off_from s).go t ht).cfg]
    refine (clearDigits_from _ t).andThen (fun u => clearDigits_phase) fun u _ => ?_
    refine (writeDecodeMode_from u).andThen (fun v => writeReg_phase) fun v _ => ?_
    refine (writeIntensity_from v).andThen (fun w => writeReg_phase) fun w _ => ?_
    refine (writeReg_from (by decide) (by decide) w).andThen (fun x => writeReg_phase) fun x _ => ?_
    refine (writeReg_from (by decide) (by decide) x).andThen (fun y => writeReg_phase) fun y _ => ?_
    exact (writeShutdown_on_from y).andThen (fun z => writeReg_phase) fun z _ => setPhase_from .on z
  exact h.mono (by omega)

theorem writePower_from {v : Byte} (hv : Transaction.emittable ⟨0x0C#8, v⟩ = true) (ph : Phase) (s : State) :
    ((writeShutdown v s).andThen (setPhase ph)).From 1 s :=
  (writeReg_from hv (by decide) s).andThen (fun _ => writeReg_phase) fun t _ => setPhase_from ph t

end Sys2Proof.Machine
end

