-- ==== Sys2Proof/Laws/Exec.lean ====
section
/-! SUPPORT. Each instruction as the shared operation it is: a command body under `runCommand`, or a bare `runWrite`. -/

namespace Sys2Proof.Machine

open Sys2Proof

theorem exec_init (s : State) :
    exec (.init) s = runCommand initBody unitAnswer s := rfl

theorem exec_on (s : State) :
    exec (.on) s = runCommand onBody unitAnswer s := rfl

theorem exec_off (s : State) :
    exec (.off) s = runCommand offBody unitAnswer s := rfl

theorem exec_getDecodeMode (s : State) :
    exec (.getDecodeMode) s = runCommand Flow.go decodeModeAnswer s := rfl

theorem exec_setDecodeMode (value : Int) (s : State) :
    exec (.setDecodeMode value) s = runCommand (setDecodeModeBody value) decodeModeAnswer s := rfl

theorem exec_getIntensity (s : State) :
    exec (.getIntensity) s = runCommand Flow.go intensityAnswer s := rfl

theorem exec_setIntensity (value : Int) (s : State) :
    exec (.setIntensity value) s = runCommand (setIntensityBody value) intensityAnswer s := rfl

theorem exec_getMirror (s : State) :
    exec (.getMirror) s = runCommand Flow.go mirrorAnswer s := rfl

theorem exec_writeChrRaw (value index : Int) (s : State) :
    exec (.writeChrRaw value index) s = runCommand (writeRaw value index) unitAnswer s := rfl

theorem exec_writeChrXlate (c : Char8) (index : Int) (dot strict : Bool) (s : State) :
    exec (.writeChrXlate c index dot strict) s = runCommand (writeXlate c index dot strict) unitAnswer s := rfl

theorem exec_writeStr (cs : List Char8) (start : Int) (strict : Bool) (s : State) :
    exec (.writeStr cs start strict) s = runCommand (writeString cs start strict) unitAnswer s := rfl

theorem exec_clear (start length : Int) (s : State) :
    exec (.clear start length) s = runCommand (writeString (blanks length) start false) unitAnswer s := rfl

theorem exec_wrNoop (v : Byte) (s : State) : exec (.wrNoop v) s = runWrite 0x00#8 v s := rfl

theorem exec_wrDigit0 (v : Byte) (s : State) : exec (.wrDigit0 v) s = runWrite 0x01#8 v s := rfl

theorem exec_wrDigit1 (v : Byte) (s : State) : exec (.wrDigit1 v) s = runWrite 0x02#8 v s := rfl

theorem exec_wrDigit2 (v : Byte) (s : State) : exec (.wrDigit2 v) s = runWrite 0x03#8 v s := rfl

theorem exec_wrDigit3 (v : Byte) (s : State) : exec (.wrDigit3 v) s = runWrite 0x04#8 v s := rfl

theorem exec_wrDigit4 (v : Byte) (s : State) : exec (.wrDigit4 v) s = runWrite 0x05#8 v s := rfl

theorem exec_wrDigit5 (v : Byte) (s : State) : exec (.wrDigit5 v) s = runWrite 0x06#8 v s := rfl

theorem exec_wrDigit6 (v : Byte) (s : State) : exec (.wrDigit6 v) s = runWrite 0x07#8 v s := rfl

theorem exec_wrDigit7 (v : Byte) (s : State) : exec (.wrDigit7 v) s = runWrite 0x08#8 v s := rfl

theorem exec_wrDecodeMode (v : Byte) (s : State) : exec (.wrDecodeMode v) s = runWrite 0x09#8 v s := rfl

theorem exec_wrIntensity (v : Byte) (s : State) : exec (.wrIntensity v) s = runWrite 0x0A#8 v s := rfl

theorem exec_wrScanLimit (v : Byte) (s : State) : exec (.wrScanLimit v) s = runWrite 0x0B#8 v s := rfl

theorem exec_wrShutdown (v : Byte) (s : State) : exec (.wrShutdown v) s = runWrite 0x0C#8 v s := rfl

theorem exec_wrDisplayTest (v : Byte) (s : State) : exec (.wrDisplayTest v) s = runWrite 0x0F#8 v s := rfl

theorem unitAnswer_eq (s : State) : unitAnswer s = .unit := rfl

theorem setDecodeModeBody_from (value : Int) (s : State) : (setDecodeModeBody value s).From 1 s := by
  unfold setDecodeModeBody
  split
  · exact (raiseNow_from (by simp [Error.code]) s).mono (by omega)
  · rename_i v _
    refine ⟨fun t ht => ?_, fun t ht => ?_⟩
    · obtain ⟨h1, h2, h3, h4, h5, h6, h7, h8, h9, h10, h11, h12⟩ :=
        (writeDecodeMode_from { s with decodeMode := v }).go t ht
      exact ⟨h1, h2, h3, h4, h5, h6, h7, h8, h9, h10, h11, h12⟩
    · obtain ⟨h1, h2, h3, h4, h5, h6, h7, h8, h9⟩ := (writeDecodeMode_from { s with decodeMode := v }).stop t ht
      exact ⟨h1, h2, h3, h4, h5, h6, h7, h8, h9⟩

theorem setIntensityBody_from (value : Int) (s : State) : (setIntensityBody value s).From 1 s := by
  unfold setIntensityBody
  split
  · exact (raiseNow_from (by simp [Error.code]) s).mono (by omega)
  · rename_i v _
    refine ⟨fun t ht => ?_, fun t ht => ?_⟩
    · obtain ⟨h1, h2, h3, h4, h5, h6, h7, h8, h9, h10, h11, h12⟩ :=
        (writeIntensity_from { s with intensity := v }).go t ht
      exact ⟨h1, h2, h3, h4, h5, h6, h7, h8, h9, h10, h11, h12⟩
    · obtain ⟨h1, h2, h3, h4, h5, h6, h7, h8, h9⟩ := (writeIntensity_from { s with intensity := v }).stop t ht
      exact ⟨h1, h2, h3, h4, h5, h6, h7, h8, h9⟩

theorem writeString_from (cs : List Char8) (start : Int) (strict : Bool) (s : State) :
    (writeString cs start strict s).From (layout cs).length s := emitEntries_from _ _ _ s

/-- The number of entries or positions that bounds a command's transactions. -/
def transactionBound (cfg : Config) : Instr → Nat
  | .init => cfg.initOrder.length + 6
  | .writeStr cs _ _ => (layout cs).length
  | .clear _ l => (layout (blanks l)).length
  | .getDecodeMode => 0
  | .getIntensity => 0
  | .getMirror => 0
  | _ => 1

/-- No result of a completed command is an error. -/
theorem unitAnswer_ne (s : State) (e : Error) : unitAnswer s ≠ .error e := by simp [unitAnswer]

theorem decodeModeAnswer_ne (s : State) (e : Error) : decodeModeAnswer s ≠ .error e := by simp [decodeModeAnswer]

theorem intensityAnswer_ne (s : State) (e : Error) : intensityAnswer s ≠ .error e := by simp [intensityAnswer]

theorem mirrorAnswer_ne (s : State) (e : Error) : mirrorAnswer s ≠ .error e := by simp [mirrorAnswer]

/-- Everything a command can do where it answers a next state: it completes with a result that is no error, or it raises. -/
theorem command_cases {i : Instr} {s t : State} (hc : i.isCommand = true) (h : exec i s = .next t) :
    s.live ∧ ((∃ m a, Reaches (transactionBound s.cfg i) s m ∧ t = m.answered a ∧ ∀ e, a ≠ .error e) ∨
      Raises (transactionBound s.cfg i) s t) := by
  have key : ∀ (body : State → Flow) (answer : State → Answer) (n : Nat), (∀ x e, answer x ≠ .error e) →
      runCommand body answer s = .next t → (body s).From n s →
      s.live ∧ ((∃ m a, Reaches n s m ∧ t = m.answered a ∧ ∀ e, a ≠ .error e) ∨ Raises n s t) := by
    intro body answer n ha hr hf
    obtain ⟨hl, ⟨m, hm, rfl⟩ | hm⟩ := runCommand_cases hr
    · exact ⟨hl, .inl ⟨m, _, hf.go m hm, rfl, ha m⟩⟩
    · exact ⟨hl, .inr (hf.stop t hm)⟩
  cases i <;> try (cases hc)
  case init => exact key _ _ _ unitAnswer_ne h (initBody_from s)
  case on => exact key onBody _ _ unitAnswer_ne h (writePower_from (by decide) .on s)
  case off => exact key offBody _ _ unitAnswer_ne h (writePower_from (by decide) .off s)
  case getDecodeMode => exact key Flow.go _ _ decodeModeAnswer_ne h (go_from s)
  case getIntensity => exact key Flow.go _ _ intensityAnswer_ne h (go_from s)
  case getMirror => exact key Flow.go _ _ mirrorAnswer_ne h (go_from s)
  case setDecodeMode v => exact key _ _ _ decodeModeAnswer_ne h (setDecodeModeBody_from v s)
  case setIntensity v => exact key _ _ _ intensityAnswer_ne h (setIntensityBody_from v s)
  case writeChrRaw v n => exact key _ _ _ unitAnswer_ne h (writeRaw_from v n s)
  case writeChrXlate c n d st => exact key _ _ _ unitAnswer_ne h (writeXlate_from c n d st s)
  case writeStr cs n st => exact key _ _ _ unitAnswer_ne h (writeString_from cs n st s)
  case clear n l => exact key _ _ _ unitAnswer_ne h (writeString_from _ n false s)

/-- Everything a register-write row can do where it answers a next state. -/
theorem write_cases {i : Instr} {s t : State} (hc : i.isCommand = false) (h : exec i s = .next t) :
    s.live ∧ ∃ a v, (s.answerAt 0 = .ok ∧ t = s.sent a v) ∨ (s.answerAt 0 = .fail ∧ t = s.sendFailed a v) := by
  have key : ∀ a v, runWrite a v s = .next t →
      s.live ∧ ∃ a v, (s.answerAt 0 = .ok ∧ t = s.sent a v) ∨ (s.answerAt 0 = .fail ∧ t = s.sendFailed a v) :=
    fun a v hr => ⟨(runWrite_cases hr).1, a, v, (runWrite_cases hr).2⟩
  cases i <;> first | exact key _ _ h | cases hc

end Sys2Proof.Machine
end

