-- ==== Sys2Proof/Laws/Init.lean ====
section
/-! SUPPORT. The transport's answers along a command, and INIT as one list of writes: what it does when they are all taken, and
what it does when the k-th fails. -/

namespace Sys2Proof.Machine

open Sys2Proof

theorem State.answerAt_drop (s t : State) (n k : Nat) (h : t.transport = s.transport.drop n) :
    t.answerAt k = s.answerAt (n + k) := by
  simp [State.answerAt, h]

theorem State.accepts_zero {s : State} {n : Nat} (h : s.accepts (n + 1)) : s.answerAt 0 = .ok := h 0 (by omega)

theorem State.accepts_tail {s t : State} {n : Nat} (ht : t.transport = s.transport.tail) (h : s.accepts (n + 1)) :
    t.accepts n := fun k hk => by
  rw [State.answerAt_tail s t ht]
  exact h (k + 1) (by omega)

theorem State.accepts_drop {s t : State} {n m : Nat} (ht : t.transport = s.transport.drop n) (h : s.accepts (n + m)) :
    t.accepts m := fun k hk => by
  rw [State.answerAt_drop s t n k ht]
  exact h (n + k) (by omega)

theorem State.accepts_mono {s : State} {n m : Nat} (h : s.accepts n) (hm : m ≤ n) : s.accepts m :=
  fun k hk => h k (by omega)

/-- One write of INIT: a register, or a digit with its buffer element. -/
inductive Write where
  | reg (a v : Byte)
  | digit (p : Pos) (v : Byte)

/-- The write as the operation that performs it. -/
def Write.run : Write → State → Flow
  | .reg a v, s => writeReg a v s
  | .digit p v, s => writePos p v s

/-- The transaction of a write. -/
def Write.transaction : Write → Transaction
  | .reg a v => ⟨a, v⟩
  | .digit p v => ⟨digitAddr p, v⟩

/-- The buffer after a write. -/
def Write.store : Write → Memory → Memory
  | .reg _ _, m => m
  | .digit p v, m => Memory.write m p v

/-- A list of writes, one after the other. -/
def runWrites : List Write → State → Flow
  | [], s => .go s
  | w :: ws, s => (w.run s).andThen (runWrites ws)

/-- The buffer after a list of writes. -/
def storeAll (ws : List Write) (m : Memory) : Memory := ws.foldl (fun m w => w.store m) m

theorem andThen_congr {x : Flow} {f g : State → Flow} (h : ∀ t, x = .go t → f t = g t) : x.andThen f = x.andThen g := by
  cases x with
  | go t => exact h t rfl
  | stop t => rfl

theorem andThen_assoc (x : Flow) (f g : State → Flow) : (x.andThen f).andThen g = x.andThen fun t => (f t).andThen g := by
  cases x <;> rfl

theorem andThen_go_right (x : Flow) : x.andThen Flow.go = x := by cases x <;> rfl

theorem runWrites_append (us ws : List Write) (s : State) :
    runWrites (us ++ ws) s = (runWrites us s).andThen (runWrites ws) := by
  induction us generalizing s with
  | nil => rfl
  | cons u us ih =>
    simp only [List.cons_append, runWrites, andThen_assoc]
    exact andThen_congr fun t _ => ih t

theorem clearDigits_eq (ps : List Pos) (s : State) :
    clearDigits ps s = runWrites (ps.map fun p => .digit p 0x00#8) s := by
  induction ps generalizing s with
  | nil => rfl
  | cons p ps ih => exact andThen_congr fun t _ => ih t

/-- A write that is taken. -/
theorem Write.run_ok (w : Write) {s : State} (h : s.answerAt 0 = .ok) :
    w.run s = .go { s with
      buf := w.store s.buf, cs := .deasserted, trace := s.trace ++ [w.transaction], transport := s.transport.tail } := by
  cases w with
  | reg a v => exact writeReg_ok h
  | digit p v => exact writePos_ok h

/-- A write that fails: the buffer holds the old or the new contents. -/
theorem Write.run_fail (w : Write) {s : State} (h : s.answerAt 0 = .fail) :
    ∃ m, (m = s.buf ∨ m = w.store s.buf) ∧
      w.run s = .stop { s.sendFailed w.transaction.addr w.transaction.value with buf := m } := by
  cases w with
  | reg a v => exact ⟨s.buf, .inl rfl, writeReg_fail h⟩
  | digit p v =>
    refine ⟨_, ?_, writePos_fail h⟩
    split
    · exact .inr rfl
    · exact .inl rfl

/-- A list of writes that are all taken. -/
theorem runWrites_ok (ws : List Write) (s : State) (h : s.accepts ws.length) :
    runWrites ws s = .go { s with
      buf := storeAll ws s.buf, cs := if ws = [] then s.cs else .deasserted,
      trace := s.trace ++ ws.map Write.transaction, transport := s.transport.drop ws.length } := by
  induction ws generalizing s with
  | nil => simp [runWrites, storeAll]
  | cons w ws ih =>
    simp only [runWrites, w.run_ok (State.accepts_zero h), Flow.andThen_go]
    rw [ih _ (State.accepts_tail rfl h)]
    simp [storeAll]

/-- A list of writes whose k-th fails. -/
theorem runWrites_fail (ws : List Write) (s : State) (k : Nat) (w : Write) (hw : ws[k]? = some w) (h : s.accepts k)
    (hf : s.answerAt k = .fail) :
    ∃ m cs, (m = storeAll (ws.take k) s.buf ∨ m = storeAll (ws.take (k + 1)) s.buf) ∧
      runWrites ws s = .stop { s with
        buf := m, cs := cs, trace := s.trace ++ (ws.take k).map Write.transaction, transport := s.transport.drop (k + 1),
        faulted := true, draws := s.draws + 1, errlog := s.errlog ++ [.transportError],
        answers := s.answers ++ [.error (.transport w.transaction.addr w.transaction.value)] } := by
  induction ws generalizing s k with
  | nil => cases hw
  | cons x ws ih =>
    cases k with
    | zero =>
      cases hw
      obtain ⟨m, hm, hr⟩ := w.run_fail hf
      refine ⟨m, csAfterFailure s.draws, ?_, ?_⟩
      · simpa [storeAll] using hm
      · simp only [runWrites, hr, Flow.andThen_stop]
        simp
    | succ k =>
      simp only [runWrites, x.run_ok (State.accepts_zero h), Flow.andThen_go]
      have hf' := (State.answerAt_tail s { s with
        buf := x.store s.buf, cs := .deasserted, trace := s.trace ++ [x.transaction], transport := s.transport.tail }
        rfl k).trans hf
      obtain ⟨m, cs, hm, hr⟩ := ih _ k hw (State.accepts_tail rfl h) hf'
      exact ⟨m, cs, by simpa [storeAll] using hm, by rw [hr]; simp⟩

/-- A list of writes leaves the values that INIT sends as they were. -/
theorem runWrites_keeps {ws : List Write} {s t : State} (h : runWrites ws s = .go t) :
    dmWire t = dmWire s ∧ t.intensity = s.intensity ∧ t.cfg = s.cfg := by
  induction ws generalizing s with
  | nil => cases h; exact ⟨rfl, rfl, rfl⟩
  | cons w ws ih =>
    obtain ⟨u, hu, h⟩ := andThen_eq_go h
    obtain ⟨h1, h2, h3⟩ := ih h
    have : dmWire u = dmWire s ∧ u.intensity = s.intensity ∧ u.cfg = s.cfg := by
      cases ha : s.answerAt 0 with
      | ok => rw [w.run_ok ha] at hu; cases hu; exact ⟨rfl, rfl, rfl⟩
      | fail => obtain ⟨m, -, hr⟩ := w.run_fail ha; rw [hr] at hu; cases hu
    exact ⟨h1.trans this.1, h2.trans this.2.1, h3.trans this.2.2⟩

/-- INIT's writes (R121). -/
def initWrites (s : State) : List Write :=
  [.reg 0x0C#8 0x00#8] ++ (s.cfg.initOrder.map fun p => .digit p 0x00#8) ++
  [.reg 0x09#8 (dmWire s), .reg 0x0A#8 (zext8 s.intensity), .reg 0x0B#8 0x07#8, .reg 0x0F#8 0x00#8, .reg 0x0C#8 0x01#8]

theorem initWrites_transactions (s : State) : (initWrites s).map Write.transaction = initTransactions s := by
  simp [initWrites, initTransactions, Write.transaction, Function.comp_def]

/-- INIT is its list of writes, then the phase. -/
theorem initBody_eq (s : State) : initBody s = (runWrites (initWrites s) s).andThen (setPhase .on) := by
  have one : ∀ (a v : Byte) (s : State), runWrites [.reg a v] s = writeReg a v s := fun a v s => andThen_go_right _
  simp only [initWrites, runWrites_append, andThen_assoc, initBody, runWrites, Flow.andThen_go]
  refine andThen_congr fun t ht => ?_
  obtain ⟨d1, i1, c1⟩ := runWrites_keeps ((one _ _ s).trans ht)
  rw [clearDigits_eq, c1]
  refine andThen_congr fun u hu => ?_
  obtain ⟨d2, i2, -⟩ := runWrites_keeps hu
  rw [writeDecodeMode, d2, d1]
  refine andThen_congr fun v hv => ?_
  obtain ⟨-, i3, -⟩ := runWrites_keeps ((one _ _ u).trans hv)
  rw [writeIntensity, i3, i2, i1]
  rfl

end Sys2Proof.Machine
end

