-- ==== Sys2Proof/Laws/PerInstr.lean ====
section
/-! SUPPORT. Per-instruction laws about syntax, one lemma per constructor. -/

namespace Sys2Proof.Laws.Encoding

open Sys2Proof

/-- A command is encoded as a well-formed record (R72); a register write as the word of its register (R76). -/
def Statement (i : Instr) : Prop :=
  match encode i with
  | .command r => i.isCommand = true ∧ r.wellFormed = true
  | .wire w => i.isCommand = false ∧ ∃ (r : Register) (v : Byte), w = wireWord r.addr v ∧ i = r.instr v ∧ i.wellFormed = r.admits v

theorem init : Statement (.init) := ⟨rfl, rfl⟩

theorem on : Statement (.on) := ⟨rfl, rfl⟩

theorem off : Statement (.off) := ⟨rfl, rfl⟩

theorem getDecodeMode : Statement (.getDecodeMode) := ⟨rfl, rfl⟩

theorem setDecodeMode (value : Int) : Statement (.setDecodeMode value) := ⟨rfl, rfl⟩

theorem getIntensity : Statement (.getIntensity) := ⟨rfl, rfl⟩

theorem setIntensity (value : Int) : Statement (.setIntensity value) := ⟨rfl, rfl⟩

theorem getMirror : Statement (.getMirror) := ⟨rfl, rfl⟩

theorem writeChrRaw (value index : Int) : Statement (.writeChrRaw value index) := ⟨rfl, rfl⟩

theorem writeChrXlate (c : Char8) (index : Int) (dot strict : Bool) : Statement (.writeChrXlate c index dot strict) := by
  refine ⟨rfl, ?_⟩
  simp [CommandRecord.wellFormed, signature, operandsMatch, Operand.hasType, c.isLt]

theorem writeStr (cs : List Char8) (start : Int) (strict : Bool) : Statement (.writeStr cs start strict) := by
  refine ⟨rfl, ?_⟩
  simp [CommandRecord.wellFormed, signature, operandsMatch, Operand.hasType]
  exact fun x _ => x.isLt

theorem clear (start length : Int) : Statement (.clear start length) := ⟨rfl, rfl⟩

theorem wrNoop (v : Byte) : Statement (.wrNoop v) := ⟨rfl, .noop, v, rfl, rfl, rfl⟩

theorem wrDigit0 (v : Byte) : Statement (.wrDigit0 v) := ⟨rfl, .digit 0, v, rfl, rfl, rfl⟩

theorem wrDigit1 (v : Byte) : Statement (.wrDigit1 v) := ⟨rfl, .digit 1, v, rfl, rfl, rfl⟩

theorem wrDigit2 (v : Byte) : Statement (.wrDigit2 v) := ⟨rfl, .digit 2, v, rfl, rfl, rfl⟩

theorem wrDigit3 (v : Byte) : Statement (.wrDigit3 v) := ⟨rfl, .digit 3, v, rfl, rfl, rfl⟩

theorem wrDigit4 (v : Byte) : Statement (.wrDigit4 v) := ⟨rfl, .digit 4, v, rfl, rfl, rfl⟩

theorem wrDigit5 (v : Byte) : Statement (.wrDigit5 v) := ⟨rfl, .digit 5, v, rfl, rfl, rfl⟩

theorem wrDigit6 (v : Byte) : Statement (.wrDigit6 v) := ⟨rfl, .digit 6, v, rfl, rfl, rfl⟩

theorem wrDigit7 (v : Byte) : Statement (.wrDigit7 v) := ⟨rfl, .digit 7, v, rfl, rfl, rfl⟩

theorem wrDecodeMode (v : Byte) : Statement (.wrDecodeMode v) := ⟨rfl, .decodeMode, v, rfl, rfl, rfl⟩

theorem wrIntensity (v : Byte) : Statement (.wrIntensity v) := ⟨rfl, .intensity, v, rfl, rfl, rfl⟩

theorem wrScanLimit (v : Byte) : Statement (.wrScanLimit v) := ⟨rfl, .scanLimit, v, rfl, rfl, rfl⟩

theorem wrShutdown (v : Byte) : Statement (.wrShutdown v) := ⟨rfl, .shutdown, v, rfl, rfl, rfl⟩

theorem wrDisplayTest (v : Byte) : Statement (.wrDisplayTest v) := ⟨rfl, .displayTest, v, rfl, rfl, rfl⟩

end Sys2Proof.Laws.Encoding
end

