-- ==== Sys2Proof/Tests/Slice0.lean ====
section
/-! SUPPORT. Tests: ill-formed terms that WellFormed refuses, words written out from the spec's encodings, the vectors of
spec/95_test_vectors.md (each names its vector), and for every obligation with hypotheses a state and operands that meet
them all (`witness_…`). -/

namespace Sys2Proof.Tests

open Sys2Proof Sys2Proof.Machine

/-! ### Helpers -/

/-- The state after one instruction; the same state where it gives none. -/
def after (i : Instr) (s : State) : State :=
  match exec i s with
  | .next t => t
  | .fault _ => s
  | .refused _ => s

/-- The words an instruction adds to the trace. -/
def added (i : Instr) (s : State) : List Nat :=
  ((after i s).trace.drop s.trace.length).map fun t => t.word.toNat

/-- The last answer after an instruction. -/
def answer (i : Instr) (s : State) : Option Answer := (after i s).answers.getLast?

/-- The logical buffer. -/
def logical (s : State) : List Byte := ([0, 1, 2, 3, 4, 5, 6, 7] : List Pos).map s.logicalAt

/-- A fresh construction with the default parameters, the digit buffer being the free values of the reset state. -/
def constructed (dm : Byte) (int : Nibble) (mirror : Bool) : State := State.fresh Config.default dm int mirror resetBuf

/-- A fresh construction, then INIT. -/
def booted (dm : Byte) (int : Nibble) (mirror : Bool) : State := after .init (constructed dm int mirror)

/-- The same state with answers of the transport to come. -/
def facing (ts : List TransportAnswer) (s : State) : State := { s with transport := ts }

/-- The state with one command issued to it. -/
def given (r : CommandRecord) : State := State.issue [r] State.reset

/-! ### Well-formedness: each check refuses an ill-formed term -/

theorem test_wf_record_op : CommandRecord.wellFormed ⟨12#4, []⟩ = false := by decide

theorem test_wf_record_missing_operand : CommandRecord.wellFormed ⟨8#4, [.int 1]⟩ = false := by decide

theorem test_wf_record_extra_operand : CommandRecord.wellFormed ⟨1#4, [.int 1]⟩ = false := by decide

theorem test_wf_record_char_256 :
    CommandRecord.wellFormed ⟨9#4, [.char 256, .int 0, .bool false, .bool false]⟩ = false := by decide

theorem test_wf_record_string_element_256 :
    CommandRecord.wellFormed ⟨10#4, [.str [0x41, 256], .int 0, .bool false]⟩ = false := by decide

theorem test_wf_record_bool_as_int :
    CommandRecord.wellFormed ⟨10#4, [.str [], .int 0, .int 1]⟩ = false := by decide

theorem test_wf_noop : Instr.wellFormed (.wrNoop 0x00#8) = false := by decide

theorem test_wf_intensity : Instr.wellFormed (.wrIntensity 0x10#8) = false := by decide

theorem test_wf_scan_limit : Instr.wellFormed (.wrScanLimit 0x06#8) = false := by decide

theorem test_wf_shutdown : Instr.wellFormed (.wrShutdown 0x02#8) = false := by decide

theorem test_wf_display_test : Instr.wellFormed (.wrDisplayTest 0x01#8) = false := by decide

theorem test_wf_parameters : Config.wf { Config.default with initOrder := [0, 1, 2, 3, 4, 5, 6, 6] } = false := by decide

/-! ### Decoding: words written out from R72 and R80, one for every constructor -/

theorem test_decode_configuration_commands :
    decode (.command ⟨0b0000#4, []⟩) = .instr .init ∧
    decode (.command ⟨0b0001#4, []⟩) = .instr .on ∧
    decode (.command ⟨0b0010#4, []⟩) = .instr .off ∧
    decode (.command ⟨0b0011#4, []⟩) = .instr .getDecodeMode ∧
    decode (.command ⟨0b0100#4, [.int 0x12]⟩) = .instr (.setDecodeMode 0x12) ∧
    decode (.command ⟨0b0101#4, []⟩) = .instr .getIntensity ∧
    decode (.command ⟨0b0110#4, [.int 15]⟩) = .instr (.setIntensity 15) ∧
    decode (.command ⟨0b0111#4, []⟩) = .instr .getMirror := by decide

theorem test_decode_digit_commands :
    decode (.command ⟨0b1000#4, [.int 0x49, .int 3]⟩) = .instr (.writeChrRaw 0x49 3) ∧
    decode (.command ⟨0b1001#4, [.char 0x41, .int 1, .bool true, .bool false]⟩) =
      .instr (.writeChrXlate 0x41#8 1 true false) ∧
    decode (.command ⟨0b1010#4, [.str [0x31, 0x2E, 0x32], .int 4, .bool true]⟩) =
      .instr (.writeStr [0x31#8, 0x2E#8, 0x32#8] 4 true) ∧
    decode (.command ⟨0b1011#4, [.int 2, .int 3]⟩) = .instr (.clear 2 3) := by decide

theorem test_decode_illegal_and_mistyped :
    decode (.command ⟨0b1100#4, []⟩) = .illegalOp 12#4 ∧ decode (.command ⟨0b1111#4, []⟩) = .illegalOp 15#4 ∧
    decode (.command ⟨0b1001#4, [.char 256, .int 1, .bool true, .bool false]⟩) = .mistyped ∧
    decode (.command ⟨0b1000#4, [.int 1, .bool true]⟩) = .mistyped := by decide

theorem test_decode_wire_noop_and_digits :
    decode (.wire 0b0000000011111111#16) = .instr (.wrNoop 0xFF#8) ∧
    decode (.wire 0b0000000100000010#16) = .instr (.wrDigit0 0x02#8) ∧
    decode (.wire 0b0000001000000010#16) = .instr (.wrDigit1 0x02#8) ∧
    decode (.wire 0b0000001100000010#16) = .instr (.wrDigit2 0x02#8) ∧
    decode (.wire 0b0000010000000010#16) = .instr (.wrDigit3 0x02#8) ∧
    decode (.wire 0b0000010100000010#16) = .instr (.wrDigit4 0x02#8) ∧
    decode (.wire 0b0000011000000010#16) = .instr (.wrDigit5 0x02#8) ∧
    decode (.wire 0b0000011100000010#16) = .instr (.wrDigit6 0x02#8) ∧
    decode (.wire 0b0000100000000010#16) = .instr (.wrDigit7 0x02#8) := by decide

theorem test_decode_wire_control :
    decode (.wire 0b0000100111110000#16) = .instr (.wrDecodeMode 0xF0#8) ∧
    decode (.wire 0b0000101000000111#16) = .instr (.wrIntensity 0x07#8) ∧
    decode (.wire 0b0000101100000111#16) = .instr (.wrScanLimit 0x07#8) ∧
    decode (.wire 0b0000110000000001#16) = .instr (.wrShutdown 0x01#8) ∧
    decode (.wire 0b0000111100000000#16) = .instr (.wrDisplayTest 0x00#8) ∧
    decode (.wire 0b0000110100000000#16) = .unnamedRegister 0x0D#8 ∧
    decode (.wire 0b0000111000000000#16) = .unnamedRegister 0x0E#8 ∧
    decode (.wire 0b0001000000000000#16) = .unnamedRegister 0x10#8 := by decide

/-- The words of the opcode table as the host asks for them. -/
theorem test_decode_table_words :
    decodeTableWord 8 0x00 = some .init ∧ decodeTableWord 8 0x09 = some (.writeChrXlate 0x00#8 0 false false) ∧
    decodeTableWord 8 0x0B = some (.clear 0 0) ∧ decodeTableWord 8 0x0C = none ∧
    decodeTableWord 16 0x0A00 = some (.wrIntensity 0x00#8) ∧ decodeTableWord 16 0x0D00 = none := by decide

theorem test_encode_words :
    encode (.writeStr [0x31#8, 0x2E#8] 5 true) = .command ⟨10#4, [.str [0x31, 0x2E], .int 5, .bool true]⟩ ∧
    encode (.wrShutdown 0x01#8) = .wire 0x0C01#16 := by decide

/-- R85, R86, with the syntax of W4 and R176. -/
theorem test_call_text :
    (Call.writeStr [0x31#8, 0x2E#8, 0x32#8, 0x2E#8, 0x33#8] (some 0) none).text = "write_str(\"1.2.3\", 0)" ∧
    (Call.writeChrXlate 0x35#8 3 (some true) none).text = "write_chr_xlate('5', 3, True)" ∧
    (Call.clear 2 3).text = "clear(2, 3)" ∧ (Call.decodeMode none).text = "decode_mode()" := by decide

/-! ### Steps from reset: a placed word runs (R21; log 8) -/

theorem test_step_runs_placed_command :
    step (State.reset.withFetchWord 8 0x01) =
      .next { State.issue [⟨1#4, []⟩] State.reset with
        phase := .on, trace := [⟨0x0C#8, 0x01#8⟩], answers := [.unit], pc := 1 } := rfl

theorem test_step_runs_placed_wire_word :
    step (State.reset.withFetchWord 16 0x0A05) = .next { State.reset with trace := [⟨0x0A#8, 0x05#8⟩] } := rfl

/-- V-E1, and R21: the run ends at the command that raised. -/
theorem test_step_illegal :
    step (given ⟨13#4, []⟩) = .next { given ⟨13#4, []⟩ with
      errlog := [.illegalCommand], answers := [.error (.illegalCommand 13#4)], ended := true } := rfl

/-- R230: the code numbers. -/
theorem test_error_numbers :
    (Error.bounds 9).code.number = 1 ∧ (Error.intensityRange 16).code.number = 2 ∧
    (Error.translation 0x78#8 2).code.number = 3 ∧ (Error.valueRange 256).code.number = 4 ∧
    (Error.transport 0x02#8 0x00#8).code.number = 5 ∧ (Error.illegalCommand 13#4).code.number = 6 := by decide

/-- R102: active low. R53: the address byte goes first. -/
theorem test_wire_views :
    ChipSelect.asserted.lineHigh = false ∧ ChipSelect.deasserted.lineHigh = true ∧
    State.reset.wireBits ⟨0x80#8, 0x01#8⟩ =
      [true, false, false, false, false, false, false, false] ++ [false, false, false, false, false, false, false, true] :=
  by decide

/-! ### The vectors of spec/95 -/

/-- V-C1, row 3. -/
theorem test_init_words :
    added .init (constructed 0x0F#8 3#4 true) =
      [0x0C00, 0x0100, 0x0200, 0x0300, 0x0400, 0x0500, 0x0600, 0x0700] ++
      [0x0800, 0x09F0, 0x0A03, 0x0B07, 0x0F00, 0x0C01] := by decide

/-- V-E2. -/
theorem test_init_fails_third :
    let t := after .init (facing [.ok, .ok, .fail] State.reset)
    t.trace = [⟨0x0C#8, 0x00#8⟩, ⟨0x01#8, 0x00#8⟩] ∧ t.phase = .uninitialized ∧ t.faulted = true ∧
      t.errlog = [.transportError] ∧ t.answers = [.error (.transport 0x02#8 0x00#8)] := by decide

/-- V-C3: ON from a fresh construction; OFF twice. -/
theorem test_on : added .on State.reset = [0x0C01] ∧ (after .on State.reset).phase = .on := by decide

theorem test_off :
    let t := after .off (booted 0xFF#8 7#4 false)
    t.phase = .off ∧ added .off t = [0x0C00] ∧ (after .off t).phase = .off := by decide

/-- V-C4. -/
theorem test_set_decode_mode :
    added (.setDecodeMode 0x12) (booted 0x0F#8 7#4 true) = [0x0948] ∧
    answer (.setDecodeMode 0x12) (booted 0x0F#8 7#4 true) = some (.u8 0x12#8) ∧
    answer (.setDecodeMode 256) (booted 0xFF#8 7#4 false) = some (.error (.valueRange 256)) ∧
    (after (.setDecodeMode (-1)) (booted 0xFF#8 7#4 false)).decodeMode = 0xFF#8 := by decide

theorem test_get_decode_mode :
    added .getDecodeMode (booted 0x0F#8 7#4 true) = [] ∧
    answer .getDecodeMode (booted 0x0F#8 7#4 true) = some (.u8 0x0F#8) := by decide

/-- V-C7. -/
theorem test_decode_mode_does_not_retranslate :
    let t := after (.writeChrXlate 0x35#8 0 false false) (booted 0xFF#8 7#4 false)
    added (.setDecodeMode 0) t = [0x0900] ∧ (after (.setDecodeMode 0) t).bufAt 0 = 0x05#8 := by decide

/-- V-C5. -/
theorem test_set_intensity :
    added (.setIntensity 15) (booted 0xFF#8 7#4 false) = [0x0A0F] ∧
    answer (.setIntensity 15) (booted 0xFF#8 7#4 false) = some (.u4 15#4) ∧
    answer (.setIntensity 16) (booted 0xFF#8 7#4 false) = some (.error (.intensityRange 16)) := by decide

/-- V-E3. -/
theorem test_set_intensity_fails :
    let t := after (.setIntensity 5) (facing [.fail] (booted 0xFF#8 7#4 false))
    t.trace.length = 14 ∧ t.intensity = 5#4 ∧ t.faulted = true := by decide

theorem test_get_intensity : answer .getIntensity (booted 0xFF#8 7#4 false) = some (.u4 7#4) := by decide

/-- V-C6. -/
theorem test_get_mirror : answer .getMirror (booted 0x0F#8 7#4 true) = some (.bool true) := by decide

/-- V-M. -/
theorem test_rev8 :
    rev8 0x12#8 = 0x48#8 ∧ rev8 0x6D#8 = 0xB6#8 ∧ rev8 0xFE#8 = 0x7F#8 ∧ rev8 0x0E#8 = 0x70#8 ∧ rev8 0xA5#8 = 0xA5#8 := by
  decide

/-- V-T4. -/
theorem test_write_chr_raw :
    answer (.writeChrRaw 256 0) (booted 0xFF#8 7#4 false) = some (.error (.valueRange 256)) ∧
    answer (.writeChrRaw 300 9) (booted 0xFF#8 7#4 false) = some (.error (.bounds 9)) ∧
    added (.writeChrRaw 0x49 3) (booted 0xFF#8 7#4 true) = [0x0549] ∧
    logical (after (.writeChrRaw 0x49 3) (booted 0xFF#8 7#4 true)) =
      [0x00#8, 0x00#8, 0x00#8, 0x49#8, 0x00#8, 0x00#8, 0x00#8, 0x00#8] := by decide

/-- R26, R263: a digit write before INIT sets its element; the others keep the unspecified bytes of the construction. -/
theorem test_write_before_init :
    (after (.writeChrRaw 0x49 3) State.reset).bufAt 3 = 0x49#8 ∧
    (after (.writeChrRaw 0x49 3) State.reset).bufAt 4 = Config.constructedByte 4 := ⟨rfl, rfl⟩

/-- V-T1: fallback, '.', mixed tables, mirrored. -/
theorem test_write_chr_xlate :
    added (.writeChrXlate 0x78#8 0 true false) (booted 0xFF#8 7#4 false) = [0x018F] ∧
    added (.writeChrXlate 0x2E#8 2 false true) (booted 0x00#8 7#4 true) = [0x0680] ∧
    added (.writeChrXlate 0x2D#8 0 false false) (booted 0x01#8 7#4 true) = [0x080A] ∧
    added (.writeChrXlate 0x2D#8 1 false false) (booted 0x01#8 7#4 true) = [0x0701] := by decide

/-- V-T2, V-T3. -/
theorem test_write_chr_xlate_errors :
    answer (.writeChrXlate 0x65#8 0 false true) (booted 0xFF#8 7#4 false) = some (.error (.translation 0x65#8 0)) ∧
    added (.writeChrXlate 0x65#8 0 false true) (booted 0x00#8 7#4 false) = [0x014F] ∧
    answer (.writeChrXlate 0x78#8 9 false true) (booted 0xFF#8 7#4 false) = some (.error (.bounds 9)) := by decide

/-- V-L1: "A...", "1234567.8..", "123456789". -/
theorem test_layout :
    layout [0x41#8, 0x2E#8, 0x2E#8, 0x2E#8] = [⟨0x41#8, true⟩, ⟨0x2E#8, true⟩, ⟨0x2E#8, true⟩] ∧
    (layout [0x31#8, 0x32#8, 0x33#8, 0x34#8, 0x35#8, 0x36#8, 0x37#8, 0x2E#8, 0x38#8, 0x2E#8, 0x2E#8]).drop 6 =
      [⟨0x37#8, true⟩, ⟨0x38#8, true⟩] ∧
    (layout [0x31#8, 0x32#8, 0x33#8, 0x34#8, 0x35#8, 0x36#8, 0x37#8, 0x38#8, 0x39#8]).drop 7 = [⟨0x38#8, false⟩] := by
  decide

/-- V-L2; V-L4 with the error of its second entry. -/
theorem test_write_str :
    added (.writeStr [0x31#8, 0x32#8, 0x33#8, 0x34#8] 5 false) (booted 0xFF#8 7#4 false) = [0x0601, 0x0702, 0x0803] ∧
    added (.writeStr [0x31#8, 0x32#8, 0x78#8, 0x34#8] 0 true) (booted 0xFF#8 7#4 false) = [0x0101, 0x0202] ∧
    answer (.writeStr [0x31#8, 0x32#8, 0x78#8, 0x34#8] 0 true) (booted 0xFF#8 7#4 false) =
      some (.error (.translation 0x78#8 2)) := by decide

/-- V-L3, mirrored. -/
theorem test_write_str_mixed :
    added (.writeStr [0x31#8, 0x32#8, 0x33#8, 0x34#8, 0x35#8, 0x36#8, 0x37#8, 0x38#8] 0 false) (booted 0xF0#8 7#4 true) =
      [0x0830, 0x076D, 0x0679, 0x0533, 0x0405, 0x0306, 0x0207, 0x0108] := by decide

/-- W7, second part. -/
theorem test_clear :
    added (.clear 0 8) (booted 0x0F#8 7#4 false) =
      [0x010F, 0x020F, 0x030F, 0x040F, 0x0500, 0x0600, 0x0700, 0x0800] := by decide

/-- V-L5. -/
theorem test_clear_edges :
    added (.clear 6 5) (booted 0xFF#8 7#4 false) = [0x070F, 0x080F] ∧
    added (.clear 3 (-2)) (booted 0xFF#8 7#4 false) = [] ∧
    answer (.clear (-1) 2) (booted 0xFF#8 7#4 false) = some (.error (.bounds (-1))) ∧
    answer (.clear (-1) 0) (booted 0xFF#8 7#4 false) = some .unit := by decide

/-- R80: the wire rows. -/
theorem test_wire_rows :
    added (.wrNoop 0x00#8) State.reset = [0x0000] ∧ added (.wrDigit0 0x81#8) State.reset = [0x0181] ∧
    added (.wrDigit1 0x81#8) State.reset = [0x0281] ∧ added (.wrDigit2 0x81#8) State.reset = [0x0381] ∧
    added (.wrDigit3 0x81#8) State.reset = [0x0481] ∧ added (.wrDigit4 0x81#8) State.reset = [0x0581] ∧
    added (.wrDigit5 0x81#8) State.reset = [0x0681] ∧ added (.wrDigit6 0x81#8) State.reset = [0x0781] ∧
    added (.wrDigit7 0x81#8) State.reset = [0x0881] ∧ added (.wrDecodeMode 0xF0#8) State.reset = [0x09F0] ∧
    added (.wrIntensity 0x0F#8) State.reset = [0x0A0F] ∧ added (.wrScanLimit 0x07#8) State.reset = [0x0B07] ∧
    added (.wrShutdown 0x01#8) State.reset = [0x0C01] ∧ added (.wrDisplayTest 0x00#8) State.reset = [0x0F00] := by decide

/-- V-C8. -/
theorem test_construction :
    State.construct Config.default 0x100 7 false resetBuf = .raised (.valueRange 0x100) ∧
    State.construct Config.default 0xFF 16 false resetBuf = .raised (.intensityRange 16) ∧
    State.construct Config.default (-1) 16 false resetBuf = .raised (.valueRange (-1)) := by decide

/-! ### Witnesses: for each obligation, states and operands that meet its hypotheses together -/

theorem witness_EncodeOfDecode : decode (.wire 0x0C01#16) = .instr (.wrShutdown 0x01#8) := by decide

/-- Each clause at a boundary: op 12; op 11 mistyped; op 11 well formed. -/
theorem witness_RecordDecodingIsTotal :
    12 ≤ (CommandRecord.op ⟨12#4, []⟩).toNat ∧
    ((CommandRecord.op ⟨11#4, []⟩).toNat < 12 ∧ CommandRecord.wellFormed ⟨11#4, []⟩ = false) ∧
    CommandRecord.wellFormed ⟨11#4, [.int 0, .int 0]⟩ = true := by decide

/-- The last unnamed addresses and the last named one. -/
theorem witness_WireWordSelectsByAddress :
    ((0x0D#8 : Byte) = 0x0D#8 ∨ (0x0D#8 : Byte) = 0x0E#8 ∨ 0x10#8 ≤ (0x0D#8 : Byte)) ∧ (0x10#8 : Byte) ≤ 0xFF#8 ∧
    ((0x0F#8 : Byte) ≠ 0x0D#8 ∧ (0x0F#8 : Byte) ≠ 0x0E#8 ∧ (0x0F#8 : Byte) < 0x10#8) := by decide

/-- Each clause at a boundary of its range. -/
theorem witness_ConstructionSetsResetValues :
    ¬ ((0 : Int) ≤ 0x100 ∧ (0x100 : Int) ≤ 0xFF) ∧ ((0 : Int) ≤ 0xFF ∧ (0xFF : Int) ≤ 0xFF) ∧
    ¬ ((0 : Int) ≤ 0x10 ∧ (0x10 : Int) ≤ 0xF) ∧ ((0 : Int) ≤ 0xF ∧ (0xF : Int) ≤ 0xF) := by decide

theorem witness_StepRunsTheDecodedCommand :
    (given ⟨1#4, []⟩).live ∧ (given ⟨1#4, []⟩).port = none ∧ (given ⟨1#4, []⟩).ended = false ∧
    (given ⟨1#4, []⟩).program[(given ⟨1#4, []⟩).pc]? = some ⟨1#4, []⟩ ∧ decode (.command ⟨1#4, []⟩) = .instr .on := by
  decide

theorem witness_StepEmitsTheWaitingWrite :
    State.live { State.reset with port := some 0x0C01#16 } ∧ decode (.wire 0x0C01#16) = .instr (.wrShutdown 0x01#8) := by
  decide

theorem witness_IllegalCommandRaises :
    (given ⟨12#4, []⟩).live ∧ (given ⟨12#4, []⟩).port = none ∧ (given ⟨12#4, []⟩).ended = false ∧
    (given ⟨12#4, []⟩).program[(given ⟨12#4, []⟩).pc]? = some ⟨12#4, []⟩ ∧ 12 ≤ (12#4).toNat := by decide

theorem witness_MistypedRecordIsRefused :
    (given ⟨11#4, []⟩).live ∧ (given ⟨11#4, []⟩).port = none ∧ (given ⟨11#4, []⟩).ended = false ∧
    (given ⟨11#4, []⟩).program[(given ⟨11#4, []⟩).pc]? = some ⟨11#4, []⟩ ∧ (11#4).toNat < 12 ∧
    CommandRecord.wellFormed ⟨11#4, []⟩ = false := by decide

/-- A command that completes and one that raises. -/
theorem witness_RunAdvancesOrEnds :
    (given ⟨1#4, []⟩).port = none ∧ (∃ t, step (given ⟨1#4, []⟩) = .next t ∧ t.pc = 1) ∧
    (given ⟨15#4, []⟩).port = none ∧ (∃ t, step (given ⟨15#4, []⟩) = .next t ∧ t.ended = true) :=
  ⟨rfl, ⟨_, rfl, rfl⟩, rfl, ⟨_, rfl, rfl⟩⟩

theorem witness_NoStepAfterTheRun :
    State.live { State.reset with ended := true } ∧ State.port { State.reset with ended := true } = none ∧
    State.reset.live ∧ State.reset.port = none ∧ State.reset.ended = false ∧
    State.reset.program.length ≤ State.reset.pc := by decide

theorem witness_FaultedBlockIsStuck : State.faulted { State.reset with faulted := true } = true := by decide

/-- The reset state meets the invariant. -/
theorem reset_inv : State.reset.Inv where
  hostDriven := rfl
  params := by decide
  legalTrace := by simp [State.reset, State.fresh]
  errorLog := rfl
  faultedIff := by simp [State.reset, State.fresh]
  inProgram := Nat.zero_le _
  shadow := fun _ =>
    ⟨rfl, by simp [State.reset, State.fresh, lastWrite], by simp [State.reset, State.fresh, lastWrite], by simp [State.reset, State.fresh, lastWrite],
     by simp [State.reset, State.fresh, lastWrite], by simp [State.reset, State.fresh, lastWrite], rfl⟩

theorem witness_StepKeepsTheInvariant : ∃ t, (given ⟨0#4, []⟩).Inv ∧ step (given ⟨0#4, []⟩) = .next t ∧ t.phase = .on :=
  by
  refine ⟨_, { reset_inv with inProgram := Nat.zero_le _, shadow := fun _ => ?_ }, rfl, rfl⟩
  have h := reset_inv.shadow rfl
  exact ⟨h.csIdle, h.digits, h.decodeModeSent, h.intensitySent, h.scanLimitSent, h.displayTestSent, h.powerSent⟩

theorem witness_ConstructionHasTheInvariant :
    Config.default.wf = true ∧ State.construct Config.default 0xFF 7 false resetBuf = .built State.reset := ⟨by decide, rfl⟩

/-- A command that completes and one that raises. -/
theorem witness_PhaseTransitions :
    State.reset.live ∧ Instr.isCommand .init = true ∧ (after .init State.reset).errlog = State.reset.errlog ∧
    Instr.isCommand (.setIntensity 16) = true ∧ (after (.setIntensity 16) State.reset).errlog ≠ State.reset.errlog := by
  decide

/-- An instruction with a next state: the only premise of ParametersNeverChange, OnlyTheirWritersChangeThem,
AtMostOneErrorPerCommand and BusShowsFramedTransactions. -/
theorem witness_next :
    ∃ t, exec (.setDecodeMode 0x12) State.reset = .next t ∧ t.decodeMode = 0x12#8 := ⟨_, rfl, rfl⟩

theorem witness_TraceOnlyGrows :
    State.reset.cfg.wf = true ∧ ∃ t, exec .init State.reset = .next t ∧ t.trace.length = 14 :=
  ⟨by decide, _, rfl, rfl⟩

theorem witness_CommandsEmitOnlyLegalTransactions :
    Instr.isCommand .init = true ∧ ∃ t, exec .init State.reset = .next t ∧ t.trace.length = 14 := ⟨rfl, _, rfl, rfl⟩

/-- An error that is TransportError, and one that is not. -/
theorem witness_AtMostOneErrorPerCommand :
    (∃ t, exec .on (facing [.fail] State.reset) = .next t ∧ t.faulted = true) ∧
    ∃ t, exec (.setIntensity 16) State.reset = .next t ∧ t.errlog = [.intensityRangeError] :=
  ⟨⟨_, rfl, rfl⟩, _, rfl, rfl⟩

theorem witness_SingleCommandErrorsLeaveState :
    (∀ cs n st, Instr.setIntensity 16 ≠ .writeStr cs n st) ∧ (∀ n l, Instr.setIntensity 16 ≠ .clear n l) ∧
    ∃ t, exec (.setIntensity 16) State.reset = .next t ∧ t.errlog ≠ State.reset.errlog ∧ t.faulted = false :=
  ⟨fun _ _ _ => by simp, fun _ _ => by simp, _, rfl, by decide, rfl⟩

theorem witness_ChipSelectIdleBetweenCommands :
    State.reset.cs = .deasserted ∧ ∃ t, exec .on State.reset = .next t ∧ t.faulted = false := ⟨rfl, _, rfl, rfl⟩

theorem witness_BufferFollowsTheTrace :
    Instr.isCommand (.writeChrRaw 0x49 3) = true ∧
    ∃ t, exec (.writeChrRaw 0x49 3) State.reset = .next t ∧ t.faulted = false ∧ t.trace = [⟨0x04#8, 0x49#8⟩] :=
  ⟨rfl, _, rfl, rfl, rfl⟩

theorem witness_InstancesAreIsolated :
    ∃ ys, Instances.execAt 1 .on [State.reset, State.reset] = .next ys ∧ [State.reset, State.reset][1]? = some State.reset :=
  ⟨_, rfl, rfl⟩

theorem witness_MirroringIsInvisibleLogically :
    let s := booted 0xF0#8 7#4 false
    let u := booted 0xF0#8 7#4 true
    let i := Instr.writeChrXlate 0x31#8 2 true false
    i.isCommand = true ∧ i ≠ .getMirror ∧ s.cfg = u.cfg ∧ s.cfg.wf = true ∧ s.decodeMode = u.decodeMode ∧
      s.intensity = u.intensity ∧ s.answers = u.answers ∧ (∀ p : Pos, s.logicalAt p = u.logicalAt p) ∧
      s.accepts 14 ∧ u.accepts 14 ∧ (∃ s', exec i s = .next s') ∧ ∃ u', exec i u = .next u' :=
  ⟨by decide, by decide, by decide, by decide, by decide, by decide, by decide, by decide, by decide, by decide,
   ⟨_, rfl⟩, _, rfl⟩

theorem witness_InitRunsItsSequence : State.reset.live ∧ State.reset.cfg.wf = true ∧ State.reset.accepts 14 := by decide

/-- The first and the last transaction of INIT can be the one that fails. -/
theorem witness_InitStopsAtATransportFailure :
    let s := facing [.fail] State.reset
    let u := facing (List.replicate 13 .ok ++ [.fail]) State.reset
    (s.live ∧ s.cfg.wf = true ∧ s.accepts 0 ∧ s.answerAt 0 = .fail) ∧
    (u.live ∧ u.cfg.wf = true ∧ u.accepts 13 ∧ u.answerAt 13 = .fail) := by decide

theorem witness_SecondInitRepeatsTheFirst : State.reset.live ∧ State.reset.cfg.wf = true ∧ State.reset.accepts 28 := by
  decide

/-- One transaction taken, one failed: ON, OFF, and the register writes of WireRowsEmitOneTransaction. -/
theorem witness_live_taken_and_failed :
    (State.reset.live ∧ State.reset.answerAt 0 = .ok) ∧
    ((facing [.fail] State.reset).live ∧ (facing [.fail] State.reset).answerAt 0 = .fail) := by decide

theorem witness_GettersAnswerStoredValues : State.reset.live := by decide

/-- The values next to the bounds, and the bounds. -/
theorem witness_SetDecodeModeStoresAndSends :
    State.reset.live ∧ ((-1 : Int) < 0 ∨ 255 < (-1 : Int)) ∧ ((256 : Int) < 0 ∨ 255 < (256 : Int)) ∧
    ((0xFF#8).toNat : Int) = 255 ∧ State.reset.answerAt 0 = .ok ∧ (facing [.fail] State.reset).answerAt 0 = .fail := by
  decide

theorem witness_SetIntensityStoresAndSends :
    State.reset.live ∧ ((-1 : Int) < 0 ∨ 15 < (-1 : Int)) ∧ ((16 : Int) < 0 ∨ 15 < (16 : Int)) ∧
    ((15#4).toNat : Int) = 15 ∧ State.reset.answerAt 0 = .ok ∧ (facing [.fail] State.reset).answerAt 0 = .fail := by
  decide

theorem witness_Rev8ReversesBits : 7 < 8 ∧ (0x80#8).getLsbD 7 = true := by decide

/-- The first and the last key of each table. -/
theorem witness_TablesHoldExactlyTheirKeys :
    builtinKeys[0]? = some 0x30#8 ∧ builtinKeys[15]? = some 0x20#8 ∧ extKeys[0]? = some 0x30#8 ∧
    extKeys[23]? = some 0x20#8 := by decide

/-- A key, a character that is none, and the dot. -/
theorem witness_TranslationFunction :
    ((0x35#8 : Char8) ≠ 0x2E#8 ∧ Config.default.builtinCode 0x35#8 = some 0x05#8) ∧
    ((0x65#8 : Char8) ≠ 0x2E#8 ∧ Config.default.builtinCode 0x65#8 = none) ∧ (0x2E#8 : Char8) = 0x2E#8 := by decide

/-- Each clause at a boundary index. -/
theorem witness_WriteChrXlateWritesOneDigit :
    State.reset.live ∧ ((8 : Int) < 0 ∨ 7 < (8 : Int)) ∧ (((7 : Pos).val : Nat) : Int) = 7 ∧
    xlateCode State.reset.cfg State.reset.decodeMode 0x78#8 7 false true = none ∧
    xlateCode State.reset.cfg State.reset.decodeMode 0x35#8 7 true false = some 0x85#8 ∧ State.reset.answerAt 0 = .ok := by
  decide

theorem witness_WriteChrRawWritesOneDigit :
    State.reset.live ∧ ((-1 : Int) < 0 ∨ 7 < (-1 : Int)) ∧ (((0 : Pos).val : Nat) : Int) = 0 ∧
    ((256 : Int) < 0 ∨ 255 < (256 : Int)) ∧ ((0xFF#8).toNat : Int) = 255 ∧ State.reset.answerAt 0 = .ok := by decide

theorem witness_FailedDigitWriteLeavesOldOrNew :
    (facing [.fail] State.reset).live ∧ (facing [.fail] State.reset).answerAt 0 = .fail ∧
    xlateCode State.reset.cfg State.reset.decodeMode 0x35#8 3 true false = some 0x85#8 ∧
    Instr.writeChrRaw 0x85 3 = .writeChrRaw ((0x85#8).toNat : Int) ((3 : Pos).val : Int) := by decide

theorem witness_TranslationLaw :
    State.reset.live ∧ State.reset.answerAt 0 = .ok ∧
    (if State.reset.decodeMode.getLsbD (3 : Pos).val then State.reset.cfg.builtinCode 0x35#8
      else State.reset.cfg.extCode 0x35#8) = some 0x05#8 := by decide

/-- Every premise of LayoutIsBounded and LayoutOfOneMoreCharacter is met. -/
theorem witness_LayoutOfOneMoreCharacter :
    (⟨0x2E#8, true⟩ : Entry) ∈ layout [0x2E#8] ∧ layout [] = [] ∧ layout [0x31#8, 0x2E#8] = [] ++ [⟨0x31#8, true⟩] ∧
    layout [0x31#8] = [] ++ [⟨0x31#8, false⟩] ∧ (layout (List.replicate 8 0x31#8)).length = 8 ∧
    (layout (List.replicate 7 0x31#8)).length < 8 ∧ (layout (List.replicate 7 0x31#8 ++ [0x32#8])).length = 8 ∧
    layout (List.replicate 7 0x31#8 ++ [0x32#8]) = List.replicate 7 ⟨0x31#8, false⟩ ++ [⟨0x32#8, false⟩] := by decide

theorem witness_DotlessStringsAreTruncated : ∀ c ∈ List.replicate 9 (0x31#8 : Char8), c ≠ 0x2E#8 := by decide

/-- Entries up to the last position. -/
theorem witness_WriteStrWritesItsEntries :
    State.reset.live ∧ State.reset.accepts (min (layout [0x31#8, 0x32#8, 0x33#8]).length (8 - 6)) ∧
    ∀ (k : Nat) (e : Entry) (i : Pos), (layout [0x31#8, 0x32#8, 0x33#8])[k]? = some e → i.val = 6 + k →
      (xlateCode State.reset.cfg State.reset.decodeMode e.char i e.dot true).isSome := by
  refine ⟨by decide, by decide, fun k e i he hi => ?_⟩
  have key : ∀ (i : Pos) (k : Fin 2), ((layout [0x31#8, 0x32#8, 0x33#8])[k.val]?).all
      (fun e => (xlateCode State.reset.cfg State.reset.decodeMode e.char i e.dot true).isSome) = true := by decide
  have h := key i ⟨k, by omega⟩
  simp only [he, Option.all_some] at h
  exact h

/-- V-L4: the third entry of "12x4" is the first unknown one. -/
theorem witness_WriteStrStopsAtAnUnknownCharacter :
    State.reset.live ∧ State.reset.accepts 2 ∧ (layout [0x31#8, 0x32#8, 0x78#8, 0x34#8])[2]? = some ⟨0x78#8, false⟩ ∧
    (2 : Pos).val = 0 + 2 ∧ xlateCode State.reset.cfg State.reset.decodeMode 0x78#8 2 false true = none ∧
    ∀ (j : Nat) (f : Entry) (n : Pos), j < 2 → (layout [0x31#8, 0x32#8, 0x78#8, 0x34#8])[j]? = some f → n.val = 0 + j →
      (xlateCode State.reset.cfg State.reset.decodeMode f.char n f.dot true).isSome := by
  refine ⟨by decide, by decide, by decide, by decide, by decide, fun j f n hj hf _ => ?_⟩
  have key : ∀ (n : Pos) (j : Fin 2), ((layout [0x31#8, 0x32#8, 0x78#8, 0x34#8])[j.val]?).all
      (fun f => (xlateCode State.reset.cfg State.reset.decodeMode f.char n f.dot true).isSome) = true := by decide
  have h := key n ⟨j, hj⟩
  simp only [hf, Option.all_some] at h
  exact h

/-- The second entry of "12" fails. -/
theorem witness_WriteStrStopsAtATransportFailure :
    let s := facing [.ok, .fail] State.reset
    s.live ∧ s.accepts 1 ∧ s.answerAt 1 = .fail ∧ (layout [0x31#8, 0x32#8])[1]? = some ⟨0x32#8, false⟩ ∧
    (7 : Pos).val = 6 + 1 ∧ xlateCode s.cfg s.decodeMode 0x32#8 7 false true = some 0x02#8 ∧
    ∀ (j : Nat) (f : Entry) (n : Pos), j < 1 → (layout [0x31#8, 0x32#8])[j]? = some f → n.val = 6 + j →
      (xlateCode s.cfg s.decodeMode f.char n f.dot true).isSome := by
  refine ⟨by decide, by decide, by decide, by decide, by decide, by decide, fun j f n hj hf _ => ?_⟩
  have key : ∀ (n : Pos) (j : Fin 1), ((layout [0x31#8, 0x32#8])[j.val]?).all
      (fun f => (xlateCode State.reset.cfg State.reset.decodeMode f.char n f.dot true).isSome) = true := by decide
  have h := key n ⟨j, hj⟩
  simp only [hf, Option.all_some] at h
  exact h

/-- Each clause at its boundary. -/
theorem witness_WriteStrAndClearOutsideTheWindow :
    State.reset.live ∧ (8 : Int) ≤ 8 ∧ ((-1 : Int) < 0 ∧ [(0x31#8 : Char8)] ≠ []) ∧ (0 : Int) ≤ 0 ∧
    ((-1 : Int) < 0 ∧ (0 : Int) < 1) := by decide

theorem witness_ClearBlanksItsRange : State.reset.live ∧ State.reset.accepts (min 5 (8 - 6)) := by decide

/-- Each of the 14 rows at a value, taken and failed. -/
theorem witness_WireRowsEmitOneTransaction :
    State.reset.live ∧ State.reset.answerAt 0 = .ok ∧ (facing [.fail] State.reset).live ∧
    (facing [.fail] State.reset).answerAt 0 = .fail ∧
    ([(.wrNoop 0xFF#8, 0x00#8), (.wrDigit0 0xFF#8, 0x01#8), (.wrDigit1 0xFF#8, 0x02#8), (.wrDigit2 0xFF#8, 0x03#8),
      (.wrDigit3 0xFF#8, 0x04#8), (.wrDigit4 0xFF#8, 0x05#8), (.wrDigit5 0xFF#8, 0x06#8), (.wrDigit6 0xFF#8, 0x07#8),
      (.wrDigit7 0xFF#8, 0x08#8), (.wrDecodeMode 0xFF#8, 0x09#8), (.wrIntensity 0xFF#8, 0x0A#8),
      (.wrScanLimit 0xFF#8, 0x0B#8), (.wrShutdown 0xFF#8, 0x0C#8), (.wrDisplayTest 0xFF#8, 0x0F#8)] :
        List (Instr × Byte)).all (fun ia =>
      decide ((after ia.1 State.reset).trace = [⟨ia.2, 0xFF#8⟩]) &&
      decide ((after ia.1 (facing [.fail] State.reset)).errlog = [.transportError])) = true := by decide

end Sys2Proof.Tests
end

section
/-! SUPPORT. A step of a command-list run, taken apart once: what `step` is where the host drives the block, what an issued
record can do, and how a run settles (spec/10_state.md R21; 60_exceptions.md R235). -/

namespace Sys2Proof.Machine

open Sys2Proof

/-- A live block with a command at the index issues it. -/
theorem step_of_fetch {s : State} {r : CommandRecord} (hl : s.live) (hp : s.port = none) (he : s.ended = false)
    (hr : s.program[s.pc]? = some r) : step s = issueRecord r s := by
  simp [step, hl, hp, he, hr]

theorem step_of_ended {s : State} (hl : s.live) (hp : s.port = none) (he : s.ended = true) :
    step s = .fault .runEnded := by
  simp [step, hl, hp, he]

theorem step_past_end {s : State} (hl : s.live) (hp : s.port = none) (he : s.ended = false)
    (hpc : s.program.length ≤ s.pc) : step s = .fault .endOfProgram := by
  simp [step, hl, hp, he, List.getElem?_eq_none hpc]

/-- Where a step with no waiting write answers a next state, it issued the record at the index. -/
theorem step_cases {s t : State} (hp : s.port = none) (h : step s = .next t) :
    s.live ∧ ∃ r, s.program[s.pc]? = some r ∧ issueRecord r s = .next t := by
  cases hl : s.faulted with
  | true => simp [step, hl] at h
  | false =>
    cases he : s.ended with
    | true => rw [step_of_ended hl hp he] at h; cases h
    | false =>
      cases hr : s.program[s.pc]? with
      | none => rw [step_past_end hl hp he (List.getElem?_eq_none_iff.1 hr)] at h; cases h
      | some r => exact ⟨hl, r, rfl, step_of_fetch hl hp he hr ▸ h⟩

theorem issueRecord_of_instr {r : CommandRecord} {i : Instr} (hd : decode (.command r) = .instr i) (s : State) :
    issueRecord r s = settleOutcome (exec i s) := by
  simp only [issueRecord, hd]

theorem issueRecord_of_illegalOp {r : CommandRecord} {op : Nibble} (hd : decode (.command r) = .illegalOp op)
    (s : State) : issueRecord r s = settleOutcome (illegalCommand op s) := by
  simp only [issueRecord, hd]

theorem settleOutcome_eq_next {o : Host.Outcome State Fault Refusal} {t : State} (h : settleOutcome o = .next t) :
    ∃ u, o = .next u ∧ t = u.settle := by
  cases o with
  | next u => cases h; exact ⟨u, rfl, rfl⟩
  | fault f => cases h
  | refused x => cases h

/-- IllegalCommand on a live block is a raise (R239). -/
theorem illegalCommand_of_live {s : State} (hl : s.live) (op : Nibble) :
    illegalCommand op s = .next (raise (.illegalCommand op) s) := by
  simp [illegalCommand, hl]

/-- Everything an issued record can do where a live block answers a next state: its command ran, or its `op` spells none. -/
theorem issueRecord_cases {r : CommandRecord} {s t : State} (hl : s.live) (h : issueRecord r s = .next t) :
    (∃ i u, decode (.command r) = .instr i ∧ exec i s = .next u ∧ t = u.settle) ∨
    (∃ op, t = (raise (.illegalCommand op) s).settle) := by
  cases hd : decode (.command r) with
  | instr i =>
    rw [issueRecord_of_instr hd] at h
    obtain ⟨u, hu, rfl⟩ := settleOutcome_eq_next h
    exact .inl ⟨i, u, rfl, hu, rfl⟩
  | illegalOp op =>
    rw [issueRecord_of_illegalOp hd, illegalCommand_of_live hl] at h
    cases h
    exact .inr ⟨op, rfl⟩
  | mistyped => simp [issueRecord, hd] at h
  | unnamedRegister a => simp [issueRecord, hd] at h

/-- A command that raised ends the run (R21, R235). -/
theorem settle_of_error {u : State} {as : List Answer} {e : Error} (h : u.answers = as ++ [.error e]) :
    u.settle = { u with ended := true } := by
  simp [State.settle, State.raised, h]

/-- A command that completed advances the index by 1 (R21). -/
theorem settle_of_result {u : State} {as : List Answer} {a : Answer} (h : u.answers = as ++ [a])
    (ha : ∀ e, a ≠ .error e) : u.settle = { u with pc := u.pc + 1 } := by
  cases a with
  | error e => exact absurd rfl (ha e)
  | unit | u8 | u4 | bool => simp [State.settle, State.raised, h]

theorem decodeNone_eq_instr {i j : Instr} {os : List Operand} (h : decodeNone i os = .instr j) : j = i := by
  unfold decodeNone at h
  split at h <;> cases h
  rfl

theorem decodeInt_eq_instr {f : Int → Instr} {j : Instr} {os : List Operand} (h : decodeInt f os = .instr j) :
    ∃ a, j = f a := by
  unfold decodeInt at h
  split at h <;> cases h
  exact ⟨_, rfl⟩

theorem decodeIntInt_eq_instr {f : Int → Int → Instr} {j : Instr} {os : List Operand}
    (h : decodeIntInt f os = .instr j) : ∃ a b, j = f a b := by
  unfold decodeIntInt at h
  split at h <;> cases h
  exact ⟨_, _, rfl⟩

theorem decodeXlate_eq_instr {j : Instr} {os : List Operand} (h : decodeXlate os = .instr j) :
    ∃ c i d st, j = .writeChrXlate c i d st := by
  unfold decodeXlate at h
  split at h
  · split at h <;> cases h
    exact ⟨_, _, _, _, rfl⟩
  · cases h

theorem decodeStr_eq_instr {j : Instr} {os : List Operand} (h : decodeStr os = .instr j) :
    ∃ cs n st, j = .writeStr cs n st := by
  unfold decodeStr at h
  split at h
  · split at h <;> cases h
    exact ⟨_, _, _, rfl⟩
  · cases h

/-- A command record decodes to a command only, never to a register-write row (R70, R72). -/
theorem isCommand_of_decode_command {r : CommandRecord} {i : Instr} (h : decode (.command r) = .instr i) :
    i.isCommand = true := by
  change decodeRecord r = .instr i at h
  unfold decodeRecord at h
  split at h
  case h_5 | h_7 => obtain ⟨a, rfl⟩ := decodeInt_eq_instr h; rfl
  case h_9 | h_12 => obtain ⟨a, b, rfl⟩ := decodeIntInt_eq_instr h; rfl
  case h_10 => obtain ⟨c, n, d, st, rfl⟩ := decodeXlate_eq_instr h; rfl
  case h_11 => obtain ⟨cs, n, st, rfl⟩ := decodeStr_eq_instr h; rfl
  case h_13 => cases h
  all_goals rw [decodeNone_eq_instr h]; rfl

/-- Settles O10: a live block with a record at the index issues it, and issuing is `exec` of what it decodes to, settled. -/
theorem stepRunsTheDecodedCommand : Obligations.StepRunsTheDecodedCommand := by
  intro s r i hl hp he hr hd
  rw [step_of_fetch hl hp he hr, issueRecord_of_instr hd]
  cases exec i s <;> rfl

/-- Settles O15: both ends of a run stop `step` before it fetches. -/
theorem noStepAfterTheRun : Obligations.NoStepAfterTheRun :=
  fun _ hl hp => ⟨step_of_ended hl hp, step_past_end hl hp⟩

/-- Settles O14: the record at the index is a command, which completes or raises and is settled accordingly, or spells no
command, which is a raise. -/
theorem runAdvancesOrEnds : Obligations.RunAdvancesOrEnds := by
  intro s t hp h
  obtain ⟨hl, r, -, hr⟩ := step_cases hp h
  obtain ⟨i, u, hd, hu, rfl⟩ | ⟨op, rfl⟩ := issueRecord_cases hl hr
  · obtain ⟨-, ⟨m, a, hm, rfl, ha⟩ | hu⟩ := command_cases (isCommand_of_decode_command hd) hu
    · have hans : (m.answered a).answers = s.answers ++ [a] := by rw [← hm.answers]
      rw [settle_of_result hans ha]
      exact ⟨hm.program, hm.port.trans hp, .inl ⟨hm.errlog, ⟨a, hans⟩, congrArg (· + 1) hm.pc, hm.ended⟩⟩
    · obtain ⟨e, hlog, hans, -⟩ := hu.error
      rw [settle_of_error hans]
      exact ⟨hu.program, hu.port.trans hp, .inr ⟨e, hlog, hans, hu.pc, rfl⟩⟩
  · rw [settle_of_error (raise_answers _ s)]
    exact ⟨rfl, hp, .inr ⟨.illegalCommand op, rfl, rfl, rfl, rfl⟩⟩

end Sys2Proof.Machine
end

section
/-! SUPPORT. The frame of every instruction: what `exec` leaves as it was, the bound on its transactions (R111), and
chip-select at its end (R28). -/

namespace Sys2Proof.Machine

open Sys2Proof

/-- Everything an instruction can do where it answers a next state: a command completes or raises, a register-write row is
one transaction, taken or failed. -/
theorem exec_cases {i : Instr} {s t : State} (h : exec i s = .next t) :
    (∃ m a, Reaches (transactionBound s.cfg i) s m ∧ t = m.answered a) ∨
    Raises (transactionBound s.cfg i) s t ∨
    (i.isCommand = false ∧ ∃ a v, t = s.sent a v ∨ t = s.sendFailed a v) := by
  cases hc : i.isCommand with
  | true =>
    obtain ⟨-, ⟨m, a, hm, ht, -⟩ | ht⟩ := command_cases hc h
    · exact .inl ⟨m, a, hm, ht⟩
    · exact .inr (.inl ht)
  | false =>
    obtain ⟨-, a, v, ht⟩ := write_cases hc h
    exact .inr (.inr ⟨rfl, a, v, ht.imp And.right And.right⟩)

/-- Settles O20: every outcome of an instruction frames the parameters and the host's fields. -/
theorem parametersNeverChange : Obligations.ParametersNeverChange := by
  intro i s t h
  obtain ⟨m, a, hm, rfl⟩ | ht | ⟨-, a, v, rfl | rfl⟩ := exec_cases h
  · exact ⟨hm.mirror, hm.cfg, hm.program, hm.pc, hm.ended, hm.port⟩
  · exact ⟨ht.mirror, ht.cfg, ht.program, ht.pc, ht.ended, ht.port⟩
  · exact ⟨rfl, rfl, rfl, rfl, rfl, rfl⟩
  · exact ⟨rfl, rfl, rfl, rfl, rfl, rfl⟩

/-- Settles O26: a transaction that is taken ends with chip-select deasserted, a failed one faults the block, and nothing
else moves the line. -/
theorem chipSelectIdleBetweenCommands : Obligations.ChipSelectIdleBetweenCommands := by
  intro i s t hcs h hf
  obtain ⟨m, a, hm, rfl⟩ | ht | ⟨-, a, v, rfl | rfl⟩ := exec_cases h
  · exact hm.csIdle hcs
  · obtain ⟨e, -, -, ⟨-, hfault⟩ | ⟨-, -, hidle⟩⟩ := ht.error
    · rw [hfault] at hf; cases hf
    · exact hidle hcs
  · rfl
  · cases hf

theorem dotLast_length (es : List Entry) : (dotLast es).length = es.length := by
  induction es with
  | nil => rfl
  | cons e es ih =>
    cases es with
    | nil => rfl
    | cons e' es => exact congrArg (· + 1) ih

/-- The scan never grows the output buffer past 8 entries (R200, R201). -/
theorem scan_length_le (cs : List Char8) {es : List Entry} (h : es.length ≤ 8) : (scan cs es).length ≤ 8 := by
  induction cs generalizing es with
  | nil => exact h
  | cons c cs ih =>
    unfold scan
    split
    · split
      · split
        · exact ih (by simp; omega)
        · exact ih h
      · exact ih (by rwa [dotLast_length])
    · split
      · exact h
      · exact ih (by simp; omega)

theorem layout_length_le (cs : List Char8) : (layout cs).length ≤ 8 := scan_length_le cs (by simp)

theorem initOrder_length {c : Config} (h : c.wf = true) : c.initOrder.length = 8 := by
  simp only [Config.wf, Bool.and_eq_true, decide_eq_true_eq] at h
  exact h.1

/-- With a permutation as `INIT_DIGIT_ORDER`, a command's bound is within the count of R111. -/
theorem transactionBound_le {c : Config} (hw : c.wf = true) (i : Instr) : transactionBound c i ≤ i.maxTransactions := by
  cases i with
  | init => simp [transactionBound, Instr.maxTransactions, initOrder_length hw]
  | writeStr cs n st => exact layout_length_le cs
  | clear n l => exact layout_length_le (blanks l)
  | _ => exact le_rfl

theorem maxTransactions_of_row {i : Instr} (hc : i.isCommand = false) : i.maxTransactions = 1 := by
  cases i <;> simp_all [Instr.isCommand, Instr.maxTransactions]

/-- Settles O22: a command appends within its bound, which is within the count of R111; a row appends one or none. -/
theorem traceOnlyGrows : Obligations.TraceOnlyGrows := by
  intro i s t hw h
  have hb := transactionBound_le hw i
  obtain ⟨m, a, hm, rfl⟩ | ht | ⟨hc, a, v, rfl | rfl⟩ := exec_cases h
  · obtain ⟨ts, htr, hlen, -⟩ := hm.trace
    exact ⟨ts, htr, hlen.trans hb⟩
  · obtain ⟨ts, htr, hlen, -⟩ := ht.trace
    exact ⟨ts, htr, hlen.trans hb⟩
  · exact ⟨[⟨a, v⟩], rfl, (maxTransactions_of_row hc).ge⟩
  · exact ⟨[], by simp, Nat.zero_le _⟩

end Sys2Proof.Machine
end

section
/-! SUPPORT. The writers of the decode mode, the intensity and the digit buffer (spec/10_state.md R23, R24, R26): `Keeps` says
that a body leaves one part of the state as it was, wherever it ends. -/

namespace Sys2Proof.Machine

open Sys2Proof

/-- A body that started in `s` leaves the part `f` of the state as it was, whether it went on or raised. -/
def Flow.Keeps {α : Type} (f : State → α) (x : Flow) (s : State) : Prop := f x.state = f s

theorem Flow.Keeps.andThen {α : Type} {f : State → α} {x : Flow} {s : State} {g : State → Flow} (hx : x.Keeps f s)
    (hg : ∀ t, (g t).Keeps f t) : (x.andThen g).Keeps f s := by
  cases x with
  | go t => exact (hg t).trans hx
  | stop t => exact hx

/-- The stored configuration registers: decode mode and intensity (R23, R24). -/
def State.registers (s : State) : Byte × Nibble := (s.decodeMode, s.intensity)

theorem writeReg_keeps_registers (a v : Byte) (s : State) : (writeReg a v s).Keeps State.registers s := by
  obtain ⟨-, h⟩ | ⟨-, h⟩ := writeReg_cases a v s <;> rw [h] <;> rfl

theorem writeReg_keeps_buf (a v : Byte) (s : State) : (writeReg a v s).Keeps State.buf s := by
  obtain ⟨-, h⟩ | ⟨-, h⟩ := writeReg_cases a v s <;> rw [h] <;> rfl

theorem writePos_keeps_registers (p : Pos) (v : Byte) (s : State) : (writePos p v s).Keeps State.registers s := by
  obtain ⟨-, h⟩ | ⟨-, h⟩ := writePos_cases p v s <;> rw [h] <;> rfl

theorem writeRaw_keeps_registers (value index : Int) (s : State) :
    (writeRaw value index s).Keeps State.registers s := by
  unfold writeRaw
  split
  · rfl
  · split
    · rfl
    · exact writePos_keeps_registers _ _ s

theorem writeXlate_keeps_registers (c : Char8) (index : Int) (dot strict : Bool) (s : State) :
    (writeXlate c index dot strict s).Keeps State.registers s := by
  unfold writeXlate
  split
  · rfl
  · split
    · rfl
    · exact writePos_keeps_registers _ _ s

theorem emitEntries_keeps_registers (es : List Entry) (pos : Int) (strict : Bool) (s : State) :
    (emitEntries es pos strict s).Keeps State.registers s := by
  induction es generalizing pos s with
  | nil => rfl
  | cons e es ih =>
    unfold emitEntries
    split
    · rfl
    · exact (writeXlate_keeps_registers _ _ _ _ s).andThen fun t => ih _ t

theorem clearDigits_keeps_registers (ps : List Pos) (s : State) : (clearDigits ps s).Keeps State.registers s := by
  induction ps generalizing s with
  | nil => rfl
  | cons p ps ih => exact (writePos_keeps_registers p _ s).andThen ih

theorem initBody_keeps_registers (s : State) : (initBody s).Keeps State.registers s :=
  (writeReg_keeps_registers _ _ s).andThen fun t =>
  (clearDigits_keeps_registers _ t).andThen fun t =>
  (writeReg_keeps_registers _ _ t).andThen fun t =>
  (writeReg_keeps_registers _ _ t).andThen fun t =>
  (writeReg_keeps_registers _ _ t).andThen fun t =>
  (writeReg_keeps_registers _ _ t).andThen fun t =>
  (writeReg_keeps_registers _ _ t).andThen fun _ => rfl

theorem writePower_keeps_registers (v : Byte) (ph : Phase) (s : State) :
    ((writeShutdown v s).andThen (setPhase ph)).Keeps State.registers s :=
  (writeReg_keeps_registers _ v s).andThen fun _ => rfl

theorem writePower_keeps_buf (v : Byte) (ph : Phase) (s : State) :
    ((writeShutdown v s).andThen (setPhase ph)).Keeps State.buf s :=
  (writeReg_keeps_buf _ v s).andThen fun _ => rfl

/-- SET_DECODE_MODE stores the decode mode and no other part of the configuration or the buffer. -/
theorem setDecodeModeBody_keeps (value : Int) (s : State) :
    (setDecodeModeBody value s).Keeps State.intensity s ∧ (setDecodeModeBody value s).Keeps State.buf s := by
  unfold setDecodeModeBody
  split
  · exact ⟨rfl, rfl⟩
  · rename_i v _
    exact ⟨congrArg Prod.snd (writeReg_keeps_registers _ _ { s with decodeMode := v }), writeReg_keeps_buf _ _ _⟩

/-- SET_INTENSITY stores the intensity and no other part of the configuration or the buffer. -/
theorem setIntensityBody_keeps (value : Int) (s : State) :
    (setIntensityBody value s).Keeps State.decodeMode s ∧ (setIntensityBody value s).Keeps State.buf s := by
  unfold setIntensityBody
  split
  · exact ⟨rfl, rfl⟩
  · rename_i v _
    exact ⟨congrArg Prod.fst (writeReg_keeps_registers _ _ { s with intensity := v }), writeReg_keeps_buf _ _ _⟩

/-- A command keeps what its body keeps, for every part of the state that the answers are no part of. -/
theorem runCommand_keeps {α : Type} {f : State → α} {body : State → Flow} {answer : State → Answer} {s t : State}
    (hf : ∀ m a, f (State.answered m a) = f m) (hb : (body s).Keeps f s) (h : runCommand body answer s = .next t) :
    f t = f s := by
  obtain ⟨-, ⟨m, hm, rfl⟩ | hm⟩ := runCommand_cases h <;> rw [hm] at hb
  · exact (hf m _).trans hb
  · exact hb

/-- A register-write row keeps the stored registers and the buffer. -/
theorem row_keeps {i : Instr} {s t : State} (hc : i.isCommand = false) (h : exec i s = .next t) :
    t.registers = s.registers ∧ t.buf = s.buf := by
  obtain ⟨-, a, v, ⟨-, rfl⟩ | ⟨-, rfl⟩⟩ := write_cases hc h <;> exact ⟨rfl, rfl⟩

/-- The stored registers change only under their own setter, and each setter leaves the other register alone. -/
theorem exec_registers {i : Instr} {s t : State} (h : exec i s = .next t) :
    t.registers = s.registers ∨ ((∃ v, i = .setDecodeMode v) ∧ t.intensity = s.intensity) ∨
    ((∃ v, i = .setIntensity v) ∧ t.decodeMode = s.decodeMode) := by
  cases i with
  | init => exact .inl (runCommand_keeps (fun _ _ => rfl) (initBody_keeps_registers s) h)
  | on => exact .inl (runCommand_keeps (fun _ _ => rfl) (writePower_keeps_registers _ _ s) h)
  | off => exact .inl (runCommand_keeps (fun _ _ => rfl) (writePower_keeps_registers _ _ s) h)
  | getDecodeMode | getIntensity | getMirror => exact .inl (runCommand_keeps (body := Flow.go) (fun _ _ => rfl) rfl h)
  | setDecodeMode v =>
    exact .inr (.inl ⟨⟨v, rfl⟩, runCommand_keeps (fun _ _ => rfl) (setDecodeModeBody_keeps v s).1 h⟩)
  | setIntensity v =>
    exact .inr (.inr ⟨⟨v, rfl⟩, runCommand_keeps (fun _ _ => rfl) (setIntensityBody_keeps v s).1 h⟩)
  | writeChrRaw v n => exact .inl (runCommand_keeps (fun _ _ => rfl) (writeRaw_keeps_registers v n s) h)
  | writeChrXlate c n d st => exact .inl (runCommand_keeps (fun _ _ => rfl) (writeXlate_keeps_registers c n d st s) h)
  | writeStr cs n st => exact .inl (runCommand_keeps (fun _ _ => rfl) (emitEntries_keeps_registers _ n st s) h)
  | clear n l => exact .inl (runCommand_keeps (fun _ _ => rfl) (emitEntries_keeps_registers _ n false s) h)
  | _ => exact .inl (row_keeps rfl h).1

/-- The digit buffer changes only under INIT and the digit and string commands. -/
theorem exec_buf {i : Instr} {s t : State} (h : exec i s = .next t) :
    t.buf = s.buf ∨ i = .init ∨ (∃ v n, i = .writeChrRaw v n) ∨ (∃ c n d st, i = .writeChrXlate c n d st) ∨
    (∃ cs n st, i = .writeStr cs n st) ∨ (∃ n l, i = .clear n l) := by
  cases i with
  | init | writeChrRaw | writeChrXlate | writeStr | clear => simp
  | on => exact .inl (runCommand_keeps (fun _ _ => rfl) (writePower_keeps_buf _ _ s) h)
  | off => exact .inl (runCommand_keeps (fun _ _ => rfl) (writePower_keeps_buf _ _ s) h)
  | getDecodeMode | getIntensity | getMirror => exact .inl (runCommand_keeps (body := Flow.go) (fun _ _ => rfl) rfl h)
  | setDecodeMode v => exact .inl (runCommand_keeps (fun _ _ => rfl) (setDecodeModeBody_keeps v s).2 h)
  | setIntensity v => exact .inl (runCommand_keeps (fun _ _ => rfl) (setIntensityBody_keeps v s).2 h)
  | _ => exact .inl (row_keeps rfl h).2

/-- Settles O21: each setter writes its own register only, and the buffer's writers are the instructions that write digits. -/
theorem onlyTheirWritersChangeThem : Obligations.OnlyTheirWritersChangeThem := by
  intro i s t h
  have hbuf := (exec_buf h).imp_left fun hb => show ∀ p : Pos, t.bufAt p = s.bufAt p from fun p => by
    simp only [State.bufAt, hb]
  obtain hr | ⟨hi, hint⟩ | ⟨hi, hdm⟩ := exec_registers h
  · exact ⟨.inl (congrArg Prod.fst hr), .inl (congrArg Prod.snd hr), hbuf⟩
  · exact ⟨.inr hi, .inl hint, hbuf⟩
  · exact ⟨.inl hdm, .inr hi, hbuf⟩

end Sys2Proof.Machine
end

section
/-! SUPPORT. Several instances (spec/10_state.md R35, 60_exceptions.md R246): `execAt` taken apart along the list. -/

namespace Sys2Proof.Machine

open Sys2Proof

theorem execAt_nil (k : Nat) (i : Instr) : Instances.execAt k i [] = .next [] := by
  simp only [Instances.execAt]

theorem execAt_zero_eq_next {i : Instr} {s : State} {ss ys : Instances}
    (h : Instances.execAt 0 i (s :: ss) = .next ys) : ∃ t, exec i s = .next t ∧ ys = t :: ss := by
  unfold Instances.execAt at h
  cases he : exec i s <;> simp only [he] at h <;> cases h
  exact ⟨_, rfl, rfl⟩

theorem execAt_succ_eq_next {k : Nat} {i : Instr} {s : State} {ss ys : Instances}
    (h : Instances.execAt (k + 1) i (s :: ss) = .next ys) :
    ∃ ts, Instances.execAt k i ss = .next ts ∧ ys = s :: ts := by
  unfold Instances.execAt at h
  cases he : Instances.execAt k i ss <;> simp only [he] at h <;> cases h
  exact ⟨_, rfl, rfl⟩

/-- Settles O29, by induction on the list of instances: number 0 is the head, a greater number is one of the tail. -/
theorem instancesAreIsolated : Obligations.InstancesAreIsolated := by
  intro k i xs ys h
  induction xs generalizing k ys with
  | nil =>
    rw [execAt_nil] at h
    cases h
    exact ⟨rfl, fun _ _ => rfl, fun _ hu => by cases hu⟩
  | cons s ss ih =>
    cases k with
    | zero =>
      obtain ⟨t, ht, rfl⟩ := execAt_zero_eq_next h
      refine ⟨rfl, fun j hj => ?_, fun u hu => ?_⟩
      · cases j with
        | zero => exact absurd rfl hj
        | succ j => rfl
      · cases hu
        exact ⟨t, ht, rfl⟩
    | succ k =>
      obtain ⟨ts, hts, rfl⟩ := execAt_succ_eq_next h
      obtain ⟨hlen, hothers, hown⟩ := ih k ts hts
      refine ⟨congrArg (· + 1) hlen, fun j hj => ?_, hown⟩
      cases j with
      | zero => rfl
      | succ j => exact hothers j (by omega)

end Sys2Proof.Machine
end

section
/-! SUPPORT. What a command last sent to each register of the chip (spec/20_memory.md R61, R65): the digits follow the
buffer, the control registers (decode mode, intensity, shutdown) follow the stored values, the others get one value
only. -/

namespace Sys2Proof.Machine

open Sys2Proof

/-- Settles O27: both ends of a command that leaves the block not faulted carry the transactions that the buffer
follows. -/
theorem bufferFollowsTheTrace : Obligations.BufferFollowsTheTrace := by
  intro i s t hc h hl
  obtain ⟨-, ⟨m, a, hm, rfl, -⟩ | ht⟩ := command_cases hc h
  · obtain ⟨ts, htr, -, -, -, hbuf⟩ := hm.trace
    exact ⟨ts, htr, hbuf⟩
  · obtain ⟨ts, htr, -, -, hbuf⟩ := ht.trace
    exact ⟨ts, htr, hbuf hl⟩

theorem lastWrite_concat (tr : List Transaction) (a v b : Byte) :
    lastWrite (tr ++ [⟨a, v⟩]) b = if a = b then some v else lastWrite tr b := by
  simp [lastWrite]

@[simp] theorem lastWrite_concat_same (tr : List Transaction) (a v : Byte) :
    lastWrite (tr ++ [⟨a, v⟩]) a = some v := by
  simp [lastWrite_concat]

@[simp] theorem lastWrite_concat_other (tr : List Transaction) {a b : Byte} (v : Byte) (h : a ≠ b) :
    lastWrite (tr ++ [⟨a, v⟩]) b = lastWrite tr b := by
  simp [lastWrite_concat, h]

theorem mem_of_lastWrite {tr : List Transaction} {a v : Byte} (h : lastWrite tr a = some v) : ⟨a, v⟩ ∈ tr := by
  induction tr using List.reverseRecOn with
  | nil => cases h
  | append_singleton tr x ih =>
    obtain ⟨b, w⟩ := x
    rw [lastWrite_concat] at h
    split at h
    case isTrue hb => cases h; simp [hb]
    case isFalse => exact List.mem_append_left _ (ih h)

/-- What a legal trace last sent to a register is a value that the block can emit there (R82). -/
theorem emittable_of_lastWrite {tr : List Transaction} {a v : Byte} (hl : ∀ x ∈ tr, x.emittable = true)
    (h : lastWrite tr a = some v) : Transaction.emittable ⟨a, v⟩ = true :=
  hl _ (mem_of_lastWrite h)

/-- The stored decode mode, intensity and phase agree with what was last sent to their registers: the part of the shadow
that the setters, ON, OFF and INIT write. -/
structure State.ControlsAgree (s : State) : Prop where
  decodeModeSent : ∀ v, lastWrite s.trace 0x09#8 = some v → v = dmWire s
  intensitySent : ∀ v, lastWrite s.trace 0x0A#8 = some v → v = zext8 s.intensity
  powerSent : s.phase = phaseOf (lastWrite s.trace 0x0C#8)

theorem State.Shadow.controls {s : State} (h : s.Shadow) : s.ControlsAgree :=
  ⟨h.decodeModeSent, h.intensitySent, h.powerSent⟩

/-- Everything that `State.ControlsAgree` reads. -/
def State.controls (s : State) : Byte × Byte × Phase × Option Byte × Option Byte × Option Byte :=
  (dmWire s, zext8 s.intensity, s.phase,
    lastWrite s.trace 0x09#8, lastWrite s.trace 0x0A#8, lastWrite s.trace 0x0C#8)

theorem State.ControlsAgree.congr {s t : State} (h : s.ControlsAgree) (ht : t.controls = s.controls) :
    t.ControlsAgree := by
  simp only [State.controls, Prod.mk.injEq] at ht
  obtain ⟨hdm, hint, hph, h9, hA, hC⟩ := ht
  exact ⟨by rw [hdm, h9]; exact h.decodeModeSent, by rw [hint, hA]; exact h.intensitySent,
    by rw [hph, hC]; exact h.powerSent⟩

/-- Wherever a body ends with the block not faulted, the controls agree. -/
def Flow.Agrees (x : Flow) : Prop := x.state.live → x.state.ControlsAgree

theorem Flow.Keeps.agrees {x : Flow} {s : State} (hx : x.Keeps State.controls s) (h : s.ControlsAgree) : x.Agrees :=
  fun _ => h.congr hx

/-- A digit's register is none of the control registers. -/
theorem writePos_keeps_controls (p : Pos) (v : Byte) (s : State) : (writePos p v s).Keeps State.controls s := by
  have hdm : digitAddr p ≠ 0x09#8 := by revert p; decide
  have hint : digitAddr p ≠ 0x0A#8 := by revert p; decide
  have hpow : digitAddr p ≠ 0x0C#8 := by revert p; decide
  obtain ⟨-, h⟩ | ⟨-, h⟩ := writePos_cases p v s <;> rw [h]
  · simp [Flow.Keeps, State.controls, hdm, hint, hpow]
    rfl
  · rfl

/-! The digit commands keep every part `f` of the state that a raise and a digit write keep. -/

theorem writeRaw_keeps {α : Type} {f : State → α} (hraise : ∀ e s, f (raise e s) = f s)
    (hpos : ∀ p v s, (writePos p v s).Keeps f s) (value index : Int) (s : State) :
    (writeRaw value index s).Keeps f s := by
  unfold writeRaw
  split
  · exact hraise _ s
  · split
    · exact hraise _ s
    · exact hpos _ _ s

theorem writeXlate_keeps {α : Type} {f : State → α} (hraise : ∀ e s, f (raise e s) = f s)
    (hpos : ∀ p v s, (writePos p v s).Keeps f s) (c : Char8) (index : Int) (dot strict : Bool) (s : State) :
    (writeXlate c index dot strict s).Keeps f s := by
  unfold writeXlate
  split
  · exact hraise _ s
  · split
    · exact hraise _ s
    · exact hpos _ _ s

theorem emitEntries_keeps {α : Type} {f : State → α} (hraise : ∀ e s, f (raise e s) = f s)
    (hpos : ∀ p v s, (writePos p v s).Keeps f s) (es : List Entry) (pos : Int) (strict : Bool) (s : State) :
    (emitEntries es pos strict s).Keeps f s := by
  induction es generalizing pos s with
  | nil => rfl
  | cons e es ih =>
    unfold emitEntries
    split
    · rfl
    · exact (writeXlate_keeps hraise hpos _ _ _ _ s).andThen fun t => ih _ t

theorem raise_controls (e : Error) (s : State) : (raise e s).controls = s.controls := rfl

/-- A register write on which the controls agree once it is taken: a failed one faults the block. -/
theorem writeReg_agrees {a v : Byte} {s : State} (h : (s.sent a v).ControlsAgree) : (writeReg a v s).Agrees := by
  obtain ⟨-, hw⟩ | ⟨-, hw⟩ := writeReg_cases a v s <;> rw [hw]
  · exact fun _ => h
  · intro hl
    cases hl

theorem setDecodeModeBody_agrees (value : Int) {s : State} (h : s.ControlsAgree) :
    (setDecodeModeBody value s).Agrees := by
  unfold setDecodeModeBody
  split
  · exact fun _ => h.congr rfl
  · exact writeReg_agrees
      { decodeModeSent := fun w hw => Option.some.inj (hw.symm.trans (lastWrite_concat_same _ _ _))
        intensitySent := by simpa [Register.addr] using h.intensitySent
        powerSent := by simpa [Register.addr] using h.powerSent }

theorem setIntensityBody_agrees (value : Int) {s : State} (h : s.ControlsAgree) :
    (setIntensityBody value s).Agrees := by
  unfold setIntensityBody
  split
  · exact fun _ => h.congr rfl
  · exact writeReg_agrees
      { decodeModeSent := fun w hw => h.decodeModeSent w (by simpa [Register.addr] using hw)
        intensitySent := by simp [Register.addr]
        powerSent := by simpa [Register.addr] using h.powerSent }

/-- ON and OFF set the phase that the value they send stands for (R108). -/
theorem writePower_agrees (v : Byte) {s : State} (h : s.ControlsAgree) :
    ((writeShutdown v s).andThen (setPhase (phaseOf (some v)))).Agrees := by
  obtain ⟨-, hw⟩ | ⟨-, hw⟩ := writeReg_cases Register.shutdown.addr v s <;> rw [writeShutdown, hw]
  · have hagree : State.ControlsAgree { s.sent 0x0C#8 v with phase := phaseOf (some v) } :=
      { decodeModeSent := fun w hw => h.decodeModeSent w (by simpa using hw)
        intensitySent := by simpa using h.intensitySent
        powerSent := by simp }
    exact fun _ => hagree
  · intro hl
    cases hl

/-- A list of writes is sent as a whole, or the block is faulted. -/
theorem runWrites_cases (ws : List Write) (s : State) :
    (∃ t, runWrites ws s = .go t ∧ t.trace = s.trace ++ ws.map Write.transaction) ∨
    (∃ t, runWrites ws s = .stop t ∧ t.faulted = true) := by
  induction ws generalizing s with
  | nil => exact .inl ⟨s, rfl, by simp⟩
  | cons w ws ih =>
    cases ha : s.answerAt 0 with
    | ok =>
      simp only [runWrites, w.run_ok ha, Flow.andThen_go]
      refine (ih _).imp_left fun ⟨t, ht, htr⟩ => ⟨t, ht, ?_⟩
      simp [htr]
    | fail =>
      obtain ⟨m, -, hm⟩ := w.run_fail ha
      exact .inr ⟨_, by rw [runWrites, hm, Flow.andThen_stop], rfl⟩

/-- The last five of INIT's transactions decide what each control register was last sent. -/
theorem lastWrite_initTransactions (tr : List Transaction) (s : State) :
    lastWrite (tr ++ initTransactions s) 0x09#8 = some (dmWire s) ∧
    lastWrite (tr ++ initTransactions s) 0x0A#8 = some (zext8 s.intensity) ∧
    lastWrite (tr ++ initTransactions s) 0x0C#8 = some 0x01#8 := by
  simp only [initTransactions, lastWrite_append]
  exact ⟨rfl, rfl, rfl⟩

/-- INIT sends every control register itself, so nothing is asked of the state it starts in. -/
theorem initBody_agrees (s : State) : (initBody s).Agrees := by
  rw [initBody_eq]
  obtain ⟨t, ht, htr⟩ | ⟨t, ht, hf⟩ := runWrites_cases (initWrites s) s <;> rw [ht]
  · rw [initWrites_transactions] at htr
    obtain ⟨hdm, hint, -⟩ := runWrites_keeps ht
    obtain ⟨h9, hA, hC⟩ := lastWrite_initTransactions s.trace s
    rw [← htr] at h9 hA hC
    intro _
    refine ⟨fun v hv => ?_, fun v hv => ?_, ?_⟩
    · exact (Option.some.inj (hv.symm.trans h9)).trans hdm.symm
    · exact (Option.some.inj (hv.symm.trans hA)).trans (congrArg zext8 hint.symm)
    · exact (congrArg phaseOf hC).symm
  · intro hl
    exact absurd hf (by simpa using hl)

theorem runCommand_agrees {body : State → Flow} {answer : State → Answer} {s t : State} (hb : (body s).Agrees)
    (h : runCommand body answer s = .next t) (hl : t.live) : t.ControlsAgree := by
  obtain ⟨-, ⟨m, hm, rfl⟩ | hm⟩ := runCommand_cases h <;> rw [hm] at hb
  · exact (hb hl).congr rfl
  · exact hb hl

/-- A command keeps the agreement of the controls, unless it faults the block. -/
theorem exec_agrees {i : Instr} {s t : State} (hc : i.isCommand = true) (hs : s.ControlsAgree)
    (h : exec i s = .next t) (hl : t.live) : t.ControlsAgree := by
  cases i with
  | init => exact runCommand_agrees (initBody_agrees s) h hl
  | on => exact runCommand_agrees (body := onBody) (writePower_agrees 0x01#8 hs) h hl
  | off => exact runCommand_agrees (body := offBody) (writePower_agrees 0x00#8 hs) h hl
  | getDecodeMode | getIntensity | getMirror => exact runCommand_agrees (body := Flow.go) (fun _ => hs) h hl
  | setDecodeMode v => exact runCommand_agrees (setDecodeModeBody_agrees v hs) h hl
  | setIntensity v => exact runCommand_agrees (setIntensityBody_agrees v hs) h hl
  | writeChrRaw v n =>
    exact runCommand_agrees ((writeRaw_keeps raise_controls writePos_keeps_controls v n s).agrees hs) h hl
  | writeChrXlate c n d st =>
    exact runCommand_agrees ((writeXlate_keeps raise_controls writePos_keeps_controls c n d st s).agrees hs) h hl
  | writeStr cs n st =>
    exact runCommand_agrees ((emitEntries_keeps raise_controls writePos_keeps_controls _ n st s).agrees hs) h hl
  | clear n l =>
    exact runCommand_agrees ((emitEntries_keeps raise_controls writePos_keeps_controls _ n false s).agrees hs) h hl
  | _ => cases hc

end Sys2Proof.Machine
end

section
/-! SUPPORT. The invariant of a host-driven run (spec/10_state.md R27, R30, R34; 20_memory.md R65): a command keeps it,
IllegalCommand keeps it, and settling keeps it. -/

namespace Sys2Proof.Machine

open Sys2Proof

/-- A digit buffer that followed the transactions `ts` agrees with the trace that they extend. -/
theorem Follows.digits {ts : List Transaction} {s t : State} (hf : Follows ts s t) (htr : t.trace = s.trace ++ ts)
    (hs : ∀ (p : Pos) v, lastWrite s.trace (digitAddr p) = some v → v = s.bufAt p) (p : Pos) (v : Byte)
    (hv : lastWrite t.trace (digitAddr p) = some v) : v = t.bufAt p := by
  rw [htr, lastWrite_append] at hv
  rw [hf p]
  cases hw : lastWrite ts (digitAddr p) with
  | none => rw [hw] at hv; exact hs p v hv
  | some w => rw [hw] at hv; exact (Option.some.inj hv).symm

/-- A command keeps the shadow of the chip's registers, unless it faults the block. -/
theorem exec_shadow {i : Instr} {s t : State} (hc : i.isCommand = true) (hs : s.Shadow) (h : exec i s = .next t)
    (hlegal : ∀ x ∈ t.trace, x.emittable = true) (hl : t.live) : t.Shadow := by
  obtain ⟨ts, htr, hbuf⟩ := bufferFollowsTheTrace i s t hc h hl
  obtain ⟨hdm, hint, hpow⟩ := exec_agrees hc hs.controls h hl
  exact
    { csIdle := chipSelectIdleBetweenCommands i s t hs.csIdle h hl
      digits := Follows.digits hbuf htr hs.digits
      decodeModeSent := hdm
      intensitySent := hint
      scanLimitSent := fun _ hv => of_decide_eq_true (emittable_of_lastWrite hlegal hv)
      displayTestSent := fun _ hv => of_decide_eq_true (emittable_of_lastWrite hlegal hv)
      powerSent := hpow }

theorem errorCode?_of_result {a : Answer} (ha : ∀ e, a ≠ .error e) : a.errorCode? = none := by
  cases a with
  | error e => exact absurd rfl (ha e)
  | unit | u8 | u4 | bool => rfl

/-- What a live block that meets the invariant has logged holds no TransportError. -/
theorem State.Inv.no_transportError {s : State} (hs : s.Inv) (hl : s.live) : .transportError ∉ s.errlog :=
  fun h => by simpa [hl] using hs.faultedIff.2 h

theorem Raises.faultedIff {n : Nat} {s t : State} (h : Raises n s t) (hs : s.Inv) (hl : s.live) :
    t.faulted = true ↔ .transportError ∈ t.errlog := by
  have hno := hs.no_transportError hl
  obtain ⟨e, hlog, -, ⟨hcode, hf⟩ | ⟨hcode, hf, -⟩⟩ := h.error
  · simp [hlog, hcode, hf]
  · simp [hlog, hf, hl, hno, hcode.symm]

/-- A command keeps the invariant. -/
theorem exec_keeps_inv {i : Instr} {s t : State} (hs : s.Inv) (hc : i.isCommand = true) (h : exec i s = .next t) :
    t.Inv := by
  obtain ⟨hl, ⟨m, a, hm, rfl, ha⟩ | ht⟩ := command_cases hc h
  · obtain ⟨ts, htr, -, hts, -⟩ := hm.trace
    have hlegal : ∀ x ∈ m.trace, x.emittable = true := htr ▸ List.forall_mem_append.2 ⟨hs.legalTrace, hts⟩
    exact
      { hostDriven := hm.port.trans hs.hostDriven
        params := hm.cfg ▸ hs.params
        legalTrace := hlegal
        errorLog := by simp [errorCode?_of_result ha, hm.errlog, hm.answers, hs.errorLog]
        faultedIff := by simpa only [hm.faulted, hm.errlog] using hs.faultedIff
        inProgram := by simpa only [hm.pc, hm.program] using hs.inProgram
        shadow := exec_shadow hc (hs.shadow hl) h hlegal }
  · obtain ⟨ts, htr, -, hts, -⟩ := ht.trace
    obtain ⟨e, hlog, hans, -⟩ := ht.error
    have hlegal : ∀ x ∈ t.trace, x.emittable = true := htr ▸ List.forall_mem_append.2 ⟨hs.legalTrace, hts⟩
    exact
      { hostDriven := ht.port.trans hs.hostDriven
        params := ht.cfg ▸ hs.params
        legalTrace := hlegal
        errorLog := by simp [hlog, hans, hs.errorLog, Answer.errorCode?]
        faultedIff := ht.faultedIff hs hl
        inProgram := by simpa only [ht.pc, ht.program] using hs.inProgram
        shadow := exec_shadow hc (hs.shadow hl) h hlegal }

/-- IllegalCommand keeps the invariant: it is logged as it is answered, and nothing else changes (R239). -/
theorem raise_illegalCommand_keeps_inv {s : State} (hs : s.Inv) (op : Nibble) :
    (raise (.illegalCommand op) s).Inv :=
  { hostDriven := hs.hostDriven
    params := hs.params
    legalTrace := hs.legalTrace
    errorLog := by simp [hs.errorLog, Answer.errorCode?]
    faultedIff := by simpa [Error.code] using hs.faultedIff
    inProgram := hs.inProgram
    shadow := fun hl => have h := hs.shadow hl; { h with } }

/-- Settling a command that stood within the list keeps the invariant: only the index or the end of the run changes. -/
theorem settle_keeps_inv {s : State} (hs : s.Inv) (hpc : s.pc < s.program.length) : s.settle.Inv := by
  unfold State.settle
  split
  · exact { hs with shadow := fun hl => have h := hs.shadow hl; { h with } }
  · exact { hs with inProgram := hpc, shadow := fun hl => have h := hs.shadow hl; { h with } }

/-- Settles O17: the record at the index is a command or spells none; either keeps the invariant, and so does
settling it. -/
theorem stepKeepsTheInvariant : Obligations.StepKeepsTheInvariant := by
  intro s t hs h
  obtain ⟨hl, r, hr, hi⟩ := step_cases hs.hostDriven h
  have hpc : s.pc < s.program.length := (List.getElem?_eq_some_iff.1 hr).1
  obtain ⟨i, u, hd, hu, rfl⟩ | ⟨op, rfl⟩ := issueRecord_cases hl hi
  · obtain ⟨-, -, hprog, hpc', -, -⟩ := parametersNeverChange i s u hu
    exact settle_keeps_inv (exec_keeps_inv hs (isCommand_of_decode_command hd) hu) (by rwa [hpc', hprog])
  · exact settle_keeps_inv (raise_illegalCommand_keeps_inv hs op) hpc

end Sys2Proof.Machine
end

section
/-! SUPPORT. The wire side of the encoding (spec/30_encoding.md R76 to R82; 20_memory.md R53): the two fields of a word,
and the registers that addresses select. -/

namespace Sys2Proof

/-- The two bytes of a wire word do not overlap, so the word is a sum (R53, R76). -/
theorem toNat_wireWord (a v : Byte) : (wireWord a v).toNat = 256 * a.toNat + v.toNat := by
  have ha := a.isLt
  have hv := v.isLt
  have hor : 256 * a.toNat ||| v.toNat = 256 * a.toNat + v.toNat := (Nat.two_pow_add_eq_or_of_lt hv _).symm
  simp only [wireWord, BitVec.toNat_or, BitVec.toNat_shiftLeft, BitVec.toNat_setWidth, Nat.shiftLeft_eq]
  rw [Nat.mod_eq_of_lt (by omega : a.toNat < 2 ^ 16), Nat.mod_eq_of_lt (by omega : v.toNat < 2 ^ 16),
    Nat.mod_eq_of_lt (by omega), Nat.mul_comm]
  exact hor

theorem toNat_wireAddr (w : WireWord) : (wireAddr w).toNat = w.toNat / 256 := by
  have hw := w.isLt
  simp only [wireAddr, BitVec.toNat_setWidth, BitVec.toNat_ushiftRight, Nat.shiftRight_eq_div_pow]
  omega

theorem toNat_wireValue (w : WireWord) : (wireValue w).toNat = w.toNat % 256 := by
  simp [wireValue]

@[simp] theorem wireAddr_wireWord (a v : Byte) : wireAddr (wireWord a v) = a :=
  BitVec.eq_of_toNat_eq (by rw [toNat_wireAddr, toNat_wireWord]; omega)

@[simp] theorem wireValue_wireWord (a v : Byte) : wireValue (wireWord a v) = v :=
  BitVec.eq_of_toNat_eq (by rw [toNat_wireValue, toNat_wireWord]; omega)

@[simp] theorem wireWord_wireAddr_wireValue (w : WireWord) : wireWord (wireAddr w) (wireValue w) = w :=
  BitVec.eq_of_toNat_eq (by rw [toNat_wireWord, toNat_wireAddr, toNat_wireValue]; omega)

@[simp] theorem Register.ofAddr?_addr (r : Register) : Register.ofAddr? r.addr = some r := by
  cases r with
  | digit p =>
    match p with
    | 0 | 1 | 2 | 3 | 4 | 5 | 6 | 7 => rfl
  | _ => rfl

theorem Register.addr_of_ofAddr? {a : Byte} {r : Register} (h : Register.ofAddr? a = some r) : r.addr = a := by
  unfold Register.ofAddr? at h
  split at h <;> cases h
  all_goals
    rename_i ha
    exact BitVec.eq_of_toNat_eq ha.symm

/-- The addresses that no source names (R82). -/
theorem Register.ofAddr?_eq_none_iff (a : Byte) :
    Register.ofAddr? a = none ↔ a = 0x0D#8 ∨ a = 0x0E#8 ∨ 0x10#8 ≤ a := by
  revert a
  decide

@[simp] theorem encode_instr (r : Register) (v : Byte) : encode (r.instr v) = encodeWrite r v := by
  cases r with
  | digit p =>
    match p with
    | 0 | 1 | 2 | 3 | 4 | 5 | 6 | 7 => rfl
  | _ => rfl

/-- The address of a register selects it whatever the value is (R78). -/
theorem decode_encodeWrite (r : Register) (v : Byte) : decode (encodeWrite r v) = .instr (r.instr v) := by
  simp [decode, encodeWrite, decodeWire]

/-- A word that decodes to an instruction is the encoding of that instruction. -/
theorem encode_of_decodeWire {w : WireWord} {i : Instr} (h : decodeWire w = .instr i) : encode i = .wire w := by
  unfold decodeWire at h
  split at h <;> cases h
  rename_i r hr
  rw [encode_instr, encodeWrite, Register.addr_of_ofAddr? hr, wireWord_wireAddr_wireValue]

theorem decodeWire_of_unnamed {a : Byte} (h : Register.ofAddr? a = none) (v : Byte) :
    decodeWire (wireWord a v) = .unnamedRegister a := by
  simp [decodeWire, h]

/-- Settles O5: the word as a sum, and its two fields. -/
theorem wireWordLayout : Obligations.WireWordLayout :=
  fun a v => ⟨toNat_wireWord a v, wireAddr_wireWord a v, wireValue_wireWord a v⟩

/-- Settles O4: the three clauses are the registers' addresses, the unnamed addresses, and that there are no others. -/
theorem wireWordSelectsByAddress : Obligations.WireWordSelectsByAddress := by
  refine ⟨decode_encodeWrite, fun a v ha => decodeWire_of_unnamed ((Register.ofAddr?_eq_none_iff a).2 ha) v,
    fun a hD hE hlt => ?_⟩
  cases hr : Register.ofAddr? a with
  | some r => exact ⟨r, Register.addr_of_ofAddr? hr⟩
  | none =>
    obtain h | h | h := (Register.ofAddr?_eq_none_iff a).1 hr
    · exact absurd h hD
    · exact absurd h hE
    · exact absurd hlt (BitVec.not_lt.2 h)

end Sys2Proof
end

section
/-! SUPPORT. The record side of the encoding (spec/30_encoding.md R72 to R75): operands by their types, each operand
reader against the signature it reads, and the round trip between instructions and encodings. -/

namespace Sys2Proof

theorem char8?_eq_some_iff {n : Nat} {c : Char8} : char8? n = some c ↔ n = c.toNat := by
  unfold char8?
  split
  case isTrue h =>
    rw [Option.some.injEq, ← BitVec.toNat_inj, BitVec.toNat_ofNat, Nat.mod_eq_of_lt h]
  case isFalse h =>
    have hc := c.isLt
    simp only [reduceCtorEq, false_iff]
    omega

@[simp] theorem char8?_toNat (c : Char8) : char8? c.toNat = some c := char8?_eq_some_iff.2 rfl

theorem chars8?_eq_some_iff {ns : List Nat} {cs : List Char8} :
    chars8? ns = some cs ↔ ns = cs.map BitVec.toNat := by
  induction ns generalizing cs with
  | nil => cases cs <;> simp [chars8?]
  | cons n ns ih =>
    cases cs with
    | nil => cases hn : char8? n <;> cases hns : chars8? ns <;> simp [chars8?, hn, hns]
    | cons c cs =>
      rw [List.map_cons, List.cons.injEq, ← char8?_eq_some_iff, ← ih]
      cases hn : char8? n <;> cases hns : chars8? ns <;> simp [chars8?, hn, hns]

@[simp] theorem chars8?_map_toNat (cs : List Char8) : chars8? (cs.map BitVec.toNat) = some cs :=
  chars8?_eq_some_iff.2 rfl

/-- The characters of a command record are those that the decoder reads (R73, R75). -/
@[simp] theorem hasType_char (n : Nat) : (Operand.char n).hasType .char = (char8? n).isSome := by
  by_cases h : n < 256 <;> simp [Operand.hasType, char8?, h]

@[simp] theorem hasType_str (ns : List Nat) : (Operand.str ns).hasType .str = (chars8? ns).isSome := by
  induction ns with
  | nil => rfl
  | cons n ns ih =>
    have hn : decide (n < 256) = (char8? n).isSome := hasType_char n
    simp only [Operand.hasType, List.all_cons] at ih ⊢
    rw [hn, ih, chars8?]
    cases char8? n <;> cases chars8? ns <;> rfl

@[simp] theorem hasType_int (a : Int) : (Operand.int a).hasType .int = true := rfl

@[simp] theorem hasType_bool (b : Bool) : (Operand.bool b).hasType .bool = true := rfl

theorem hasType_int_iff {o : Operand} : o.hasType .int = true ↔ ∃ a, o = .int a := by
  cases o <;> simp [Operand.hasType]

theorem hasType_bool_iff {o : Operand} : o.hasType .bool = true ↔ ∃ b, o = .bool b := by
  cases o <;> simp [Operand.hasType]

theorem hasType_char_iff {o : Operand} : o.hasType .char = true ↔ ∃ c : Char8, o = .char c.toNat := by
  cases o with
  | char n => simp [Option.isSome_iff_exists, char8?_eq_some_iff]
  | _ => simp [Operand.hasType]

theorem hasType_str_iff {o : Operand} :
    o.hasType .str = true ↔ ∃ cs : List Char8, o = .str (cs.map BitVec.toNat) := by
  cases o with
  | str ns => simp [Option.isSome_iff_exists, chars8?_eq_some_iff]
  | _ => simp [Operand.hasType]

@[simp] theorem operandsMatch_nil_iff {os : List Operand} : operandsMatch os [] = true ↔ os = [] := by
  cases os <;> simp [operandsMatch]

@[simp] theorem operandsMatch_cons_iff {os : List Operand} {t : OperandType} {ts : List OperandType} :
    operandsMatch os (t :: ts) = true ↔
      ∃ o os', os = o :: os' ∧ o.hasType t = true ∧ operandsMatch os' ts = true := by
  cases os <;> simp [operandsMatch]

/-- What reading the operands `os` of command number `op` against the signature `ts` answers: an instruction of which this
is the encoding where the operands have their types, else a rejection (R72, R73). -/
inductive Reads (op : Nibble) (ts : List OperandType) (os : List Operand) : Decoded → Prop where
  | typed {i : Instr} (hm : operandsMatch os ts = true) (he : encode i = .command ⟨op, os⟩) :
    Reads op ts os (.instr i)
  | mistyped (hm : operandsMatch os ts = false) : Reads op ts os .mistyped

theorem decodeNone_reads {op : Nibble} {i : Instr} (he : encode i = .command ⟨op, []⟩) (os : List Operand) :
    Reads op [] os (decodeNone i os) := by
  cases os with
  | nil => exact .typed rfl he
  | cons o os => exact .mistyped rfl

theorem decodeInt_reads {op : Nibble} {f : Int → Instr} (he : ∀ a, encode (f a) = .command ⟨op, [.int a]⟩)
    (os : List Operand) : Reads op [.int] os (decodeInt f os) := by
  unfold decodeInt
  split
  case h_1 a => exact .typed rfl (he a)
  case h_2 hne =>
    refine .mistyped (Bool.eq_false_iff.2 fun hm => ?_)
    simp only [operandsMatch_cons_iff, operandsMatch_nil_iff, hasType_int_iff] at hm
    obtain ⟨_, _, rfl, ⟨a, rfl⟩, rfl⟩ := hm
    exact hne a rfl

theorem decodeIntInt_reads {op : Nibble} {f : Int → Int → Instr}
    (he : ∀ a b, encode (f a b) = .command ⟨op, [.int a, .int b]⟩) (os : List Operand) :
    Reads op [.int, .int] os (decodeIntInt f os) := by
  unfold decodeIntInt
  split
  case h_1 a b => exact .typed rfl (he a b)
  case h_2 hne =>
    refine .mistyped (Bool.eq_false_iff.2 fun hm => ?_)
    simp only [operandsMatch_cons_iff, operandsMatch_nil_iff, hasType_int_iff] at hm
    obtain ⟨_, _, rfl, ⟨a, rfl⟩, _, _, rfl, ⟨b, rfl⟩, rfl⟩ := hm
    exact hne a b rfl

theorem decodeXlate_reads (os : List Operand) : Reads 9 [.char, .int, .bool, .bool] os (decodeXlate os) := by
  unfold decodeXlate
  split
  case h_1 n i d st =>
    split
    case h_1 c hc => exact .typed (by simp [operandsMatch, hc]) (by rw [char8?_eq_some_iff.1 hc]; rfl)
    case h_2 hc => exact .mistyped (by simp [operandsMatch, hc])
  case h_2 hne =>
    refine .mistyped (Bool.eq_false_iff.2 fun hm => ?_)
    simp only [operandsMatch_cons_iff, operandsMatch_nil_iff, hasType_int_iff, hasType_bool_iff, hasType_char_iff] at hm
    obtain ⟨_, _, rfl, ⟨c, rfl⟩, _, _, rfl, ⟨i, rfl⟩, _, _, rfl, ⟨d, rfl⟩, _, _, rfl, ⟨st, rfl⟩, rfl⟩ := hm
    exact hne _ i d st rfl

theorem decodeStr_reads (os : List Operand) : Reads 10 [.str, .int, .bool] os (decodeStr os) := by
  unfold decodeStr
  split
  case h_1 ns n st =>
    split
    case h_1 cs hcs =>
      exact .typed (by simp [operandsMatch, hcs]) (by rw [chars8?_eq_some_iff.1 hcs]; rfl)
    case h_2 hcs => exact .mistyped (by simp [operandsMatch, hcs])
  case h_2 hne =>
    refine .mistyped (Bool.eq_false_iff.2 fun hm => ?_)
    simp only [operandsMatch_cons_iff, operandsMatch_nil_iff, hasType_int_iff, hasType_bool_iff, hasType_str_iff] at hm
    obtain ⟨_, _, rfl, ⟨cs, rfl⟩, _, _, rfl, ⟨n, rfl⟩, _, _, rfl, ⟨st, rfl⟩, rfl⟩ := hm
    exact hne _ n st rfl

/-- The decoder reads the operands of every command number of R72 against their signature. -/
theorem decodeRecord_reads {r : CommandRecord} {ts : List OperandType} (h : signature r.op = some ts) :
    Reads r.op ts r.operands (decodeRecord r) := by
  obtain ⟨⟨op⟩, os⟩ := r
  match op, h with
  | 0, rfl | 1, rfl | 2, rfl | 3, rfl | 5, rfl | 7, rfl => exact decodeNone_reads rfl os
  | 4, rfl | 6, rfl => exact decodeInt_reads (fun _ => rfl) os
  | 8, rfl | 11, rfl => exact decodeIntInt_reads (fun _ _ => rfl) os
  | 9, rfl => exact decodeXlate_reads os
  | 10, rfl => exact decodeStr_reads os
  | 12, h | 13, h | 14, h | 15, h => cases h

theorem signature_eq_none_iff (op : Nibble) : signature op = none ↔ 12 ≤ op.toNat := by
  revert op
  decide

theorem decodeRecord_of_illegalOp {r : CommandRecord} (h : 12 ≤ r.op.toNat) : decodeRecord r = .illegalOp r.op := by
  unfold decodeRecord
  split
  case h_13 => rfl
  all_goals omega

theorem wellFormed_of_signature {r : CommandRecord} {ts : List OperandType} (h : signature r.op = some ts) :
    r.wellFormed = operandsMatch r.operands ts := by
  simp only [CommandRecord.wellFormed, h]

/-- Everything decoding a record can answer (R73). -/
theorem decodeRecord_cases (r : CommandRecord) :
    (12 ≤ r.op.toNat ∧ r.wellFormed = false ∧ decodeRecord r = .illegalOp r.op) ∨
    (r.op.toNat < 12 ∧ r.wellFormed = false ∧ decodeRecord r = .mistyped) ∨
    (r.op.toNat < 12 ∧ r.wellFormed = true ∧ ∃ i, decodeRecord r = .instr i ∧ encode i = .command r) := by
  cases hs : signature r.op with
  | none =>
    have hop := (signature_eq_none_iff r.op).1 hs
    exact .inl ⟨hop, by simp only [CommandRecord.wellFormed, hs], decodeRecord_of_illegalOp hop⟩
  | some ts =>
    have hop : r.op.toNat < 12 := Nat.lt_of_not_le fun h => by simp [(signature_eq_none_iff r.op).2 h] at hs
    have hr := decodeRecord_reads hs
    rw [wellFormed_of_signature hs]
    generalize decodeRecord r = d at hr ⊢
    cases hr with
    | typed hm he => exact .inr (.inr ⟨hop, hm, _, rfl, he⟩)
    | mistyped hm => exact .inr (.inl ⟨hop, hm, rfl⟩)

theorem encode_of_decodeRecord {r : CommandRecord} {i : Instr} (h : decodeRecord r = .instr i) :
    encode i = .command r := by
  obtain ⟨-, -, hd⟩ | ⟨-, -, hd⟩ | ⟨-, -, j, hd, he⟩ := decodeRecord_cases r <;> rw [hd] at h <;> cases h
  exact he

/-- Settles O1: a register write is the word that its address selects, characters and strings are read back from their
codes, and the other commands have their operands in the record as they are. -/
theorem decodeOfEncode : Obligations.DecodeOfEncode := by
  intro i
  cases i with
  | writeChrXlate c n d st => simp [encode, decode, decodeRecord, decodeXlate]
  | writeStr cs n st => simp [encode, decode, decodeRecord, decodeStr]
  | wrNoop v | wrDigit0 v | wrDigit1 v | wrDigit2 v | wrDigit3 v | wrDigit4 v | wrDigit5 v | wrDigit6 v | wrDigit7 v
  | wrDecodeMode v | wrIntensity v | wrScanLimit v | wrShutdown v | wrDisplayTest v =>
    exact decode_encodeWrite _ v
  | _ => rfl

/-- Settles O2: a record is read back from the operands it was decoded from, a word from its two fields. -/
theorem encodeOfDecode : Obligations.EncodeOfDecode := by
  intro e i h
  cases e with
  | command r => exact encode_of_decodeRecord h
  | wire w => exact encode_of_decodeWire h

/-- Settles O3: the three answers to a record exclude each other. -/
theorem recordDecodingIsTotal : Obligations.RecordDecodingIsTotal := by
  intro r
  obtain ⟨hop, hwf, hd⟩ | ⟨hop, hwf, hd⟩ | ⟨hop, hwf, i, hd, -⟩ := decodeRecord_cases r
  · exact ⟨fun _ => hd, fun h => absurd hop (Nat.not_le.2 h), fun h => by simp [hwf] at h⟩
  · exact ⟨fun h => absurd hop (Nat.not_lt.2 h), fun _ _ => hd, fun h => by simp [hwf] at h⟩
  · exact ⟨fun h => absurd hop (Nat.not_lt.2 h), fun _ h => by simp [hwf] at h,
      fun _ => ⟨i, hd, Machine.isCommand_of_decode_command hd⟩⟩

/-- Settles O6: the seven encodings run through the decoder. -/
theorem sampleEncodingsDecode : Obligations.SampleEncodingsDecode :=
  ⟨rfl, rfl, rfl, rfl, rfl, rfl, rfl⟩

/-- Settles O7: the defaults are the last case of each operand's reading. -/
theorem callDefaults : Obligations.CallDefaults :=
  ⟨fun _ _ _ => ⟨rfl, rfl⟩, fun _ _ => ⟨rfl, rfl⟩, fun _ => ⟨rfl, rfl, rfl, rfl⟩⟩

end Sys2Proof
end

section
/-! SUPPORT. What the encoding says of a run (spec/30_encoding.md R73, R80, R82, R87): refused records, the transactions
that commands emit, and the expansion of CLEAR. -/

namespace Sys2Proof.Machine

open Sys2Proof

theorem issueRecord_of_mistyped {r : CommandRecord} (hd : decode (.command r) = .mistyped) (s : State) :
    issueRecord r s = .refused .mistypedRecord := by
  simp only [issueRecord, hd]

/-- Settles O13: the record at the index decodes to `mistyped`, which is the refusal. -/
theorem mistypedRecordIsRefused : Obligations.MistypedRecordIsRefused := by
  intro s r hl hp he hr hop hwf
  rw [step_of_fetch hl hp he hr]
  exact issueRecord_of_mistyped ((recordDecodingIsTotal r).2.1 hop hwf) s

/-- The digit registers are those below the decode-mode register (R80, R104). -/
theorem digit_addr_bounds (p : Pos) : 0x01#8 ≤ (Register.digit p).addr ∧ (Register.digit p).addr ≤ 0x09#8 := by
  revert p
  decide

/-- An emittable transaction, by the address and the value that the table of R80 gives its register. -/
theorem emittable_cases {x : Transaction} (h : x.emittable = true) :
    (0x01#8 ≤ x.addr ∧ x.addr ≤ 0x09#8) ∨ (x.addr = 0x0A#8 ∧ x.value ≤ 0x0F#8) ∨ (x.addr = 0x0B#8 ∧ x.value = 0x07#8) ∨
    (x.addr = 0x0C#8 ∧ (x.value = 0x00#8 ∨ x.value = 0x01#8)) ∨ (x.addr = 0x0F#8 ∧ x.value = 0x00#8) := by
  unfold Transaction.emittable Transaction.register? at h
  split at h
  case h_2 => cases h
  case h_1 r hr =>
    rw [← Register.addr_of_ofAddr? hr]
    cases r with
    | noop => cases h
    | digit p => exact .inl (digit_addr_bounds p)
    | decodeMode => exact .inl (by decide)
    | intensity => exact .inr (.inl ⟨rfl, of_decide_eq_true h⟩)
    | scanLimit => exact .inr (.inr (.inl ⟨rfl, of_decide_eq_true h⟩))
    | shutdown => exact .inr (.inr (.inr (.inl ⟨rfl, of_decide_eq_true h⟩)))
    | displayTest => exact .inr (.inr (.inr (.inr ⟨rfl, of_decide_eq_true h⟩)))

/-- A command, completed or not, appends only transactions that the block can emit (R82). -/
theorem exec_appends_emittable {i : Instr} {s t : State} (hc : i.isCommand = true) (h : exec i s = .next t) :
    ∃ ts, t.trace = s.trace ++ ts ∧ ∀ x ∈ ts, x.emittable = true := by
  obtain ⟨-, ⟨m, a, hm, rfl, -⟩ | ht⟩ := command_cases hc h
  · obtain ⟨ts, htr, -, hts, -⟩ := hm.trace
    exact ⟨ts, htr, hts⟩
  · obtain ⟨ts, htr, -, hts, -⟩ := ht.trace
    exact ⟨ts, htr, hts⟩

/-- Settles O23: what a command appends is emittable, which is the table of R80. -/
theorem commandsEmitOnlyLegalTransactions : Obligations.CommandsEmitOnlyLegalTransactions := by
  intro i s t hc h
  obtain ⟨ts, htr, hts⟩ := exec_appends_emittable hc h
  exact ⟨ts, htr, fun x hx => emittable_cases (hts x hx)⟩

theorem blanks_eq (length : Int) : blanks length = List.replicate (max length 0).toNat chrSpace := by
  rw [blanks, show (max length 0).toNat = length.toNat by omega]

/-- Settles O56: CLEAR and WRITE_STR run the same body, on the blanks. -/
theorem clearIsItsExpansion : Obligations.ClearIsItsExpansion := by
  intro s start length
  rw [exec_clear, exec_writeStr, blanks_eq]
  rfl

end Sys2Proof.Machine
end

section
/-! SUPPORT. The bus view of an instruction (spec/40_register_protocol.md R101): the events follow the trace. -/

namespace Sys2Proof.Machine

open Sys2Proof

/-- No instruction rewrites a transaction of the trace, whatever the parameters. -/
theorem exec_extends_trace {i : Instr} {s t : State} (h : exec i s = .next t) : ∃ ts, t.trace = s.trace ++ ts := by
  obtain ⟨m, a, hm, rfl⟩ | ht | ⟨-, a, v, rfl | rfl⟩ := exec_cases h
  · obtain ⟨ts, htr, -⟩ := hm.trace
    exact ⟨ts, htr⟩
  · obtain ⟨ts, htr, -⟩ := ht.trace
    exact ⟨ts, htr⟩
  · exact ⟨[⟨a, v⟩], rfl⟩
  · exact ⟨[], (List.append_nil _).symm⟩

/-- A longer trace shows the events of its new transactions after those of the old ones. -/
theorem State.busEvents_of_trace_append {s t : State} {ts : List Transaction} (h : t.trace = s.trace ++ ts) :
    t.busEvents = s.busEvents ++ ts.flatMap Transaction.events := by
  rw [State.busEvents, State.busEvents, h, List.flatMap_append]

/-- Settles O28: an instruction only appends to the trace, and the bus shows a trace transaction by transaction. -/
theorem busShowsFramedTransactions : Obligations.BusShowsFramedTransactions := by
  intro i s t h
  obtain ⟨ts, htr⟩ := exec_extends_trace h
  exact ⟨ts, htr, State.busEvents_of_trace_append htr⟩

end Sys2Proof.Machine
end

section
/-! SUPPORT. What every command leaves in the phase (spec/41_configuration.md R120): each command is a body under
`runCommand` that keeps the phase, except that INIT, ON and OFF end by setting it. -/

namespace Sys2Proof.Machine

open Sys2Proof

theorem writeReg_keeps_phase (a v : Byte) (s : State) : (writeReg a v s).Keeps State.phase s := by
  obtain ⟨-, h⟩ | ⟨-, h⟩ := writeReg_cases a v s <;> rw [h] <;> rfl

theorem writePos_keeps_phase (p : Pos) (v : Byte) (s : State) : (writePos p v s).Keeps State.phase s := by
  obtain ⟨-, h⟩ | ⟨-, h⟩ := writePos_cases p v s <;> rw [h] <;> rfl

theorem setDecodeModeBody_keeps_phase (value : Int) (s : State) :
    (setDecodeModeBody value s).Keeps State.phase s := by
  unfold setDecodeModeBody
  split
  · rfl
  · exact writeReg_keeps_phase _ _ _

theorem setIntensityBody_keeps_phase (value : Int) (s : State) :
    (setIntensityBody value s).Keeps State.phase s := by
  unfold setIntensityBody
  split
  · rfl
  · exact writeReg_keeps_phase _ _ _

/-- A body that keeps a part of the state keeps it where it went on. -/
theorem Flow.Keeps.of_eq_go {α : Type} {f : State → α} {x : Flow} {s m : State} (hx : x.Keeps f s) (h : x = .go m) :
    f m = f s := by
  subst h
  exact hx

/-- A body that ends by setting the phase. -/
theorem phase_of_andThen_setPhase {x : Flow} {ph : Phase} {m : State} (h : x.andThen (setPhase ph) = .go m) :
    m.phase = ph := by
  obtain ⟨u, -, hu⟩ := andThen_eq_go h
  cases hu
  rfl

/-- Every command is a body that goes on or raises, and that goes on with the phase of the table of R120. -/
theorem exec_command_body {i : Instr} (hc : i.isCommand = true) (s : State) :
    ∃ body answer n, exec i s = runCommand body answer s ∧ (body s).From n s ∧
      ∀ m, body s = .go m → m.phase = i.phaseAfter s.phase := by
  cases i with
  | init =>
    refine ⟨_, _, _, exec_init s, initBody_from s, fun m hm => ?_⟩
    rw [initBody_eq] at hm
    exact phase_of_andThen_setPhase hm
  | on => exact ⟨_, _, _, exec_on s, writePower_from rfl .on s, fun _ => phase_of_andThen_setPhase⟩
  | off => exact ⟨_, _, _, exec_off s, writePower_from rfl .off s, fun _ => phase_of_andThen_setPhase⟩
  | getDecodeMode => exact ⟨_, _, _, exec_getDecodeMode s, go_from s, fun _ hm => by cases hm; rfl⟩
  | getIntensity => exact ⟨_, _, _, exec_getIntensity s, go_from s, fun _ hm => by cases hm; rfl⟩
  | getMirror => exact ⟨_, _, _, exec_getMirror s, go_from s, fun _ hm => by cases hm; rfl⟩
  | setDecodeMode v =>
    exact ⟨_, _, _, exec_setDecodeMode v s, setDecodeModeBody_from v s,
      fun _ => (setDecodeModeBody_keeps_phase v s).of_eq_go⟩
  | setIntensity v =>
    exact ⟨_, _, _, exec_setIntensity v s, setIntensityBody_from v s,
      fun _ => (setIntensityBody_keeps_phase v s).of_eq_go⟩
  | writeChrRaw v n =>
    exact ⟨_, _, _, exec_writeChrRaw v n s, writeRaw_from v n s,
      fun _ => (writeRaw_keeps raise_phase writePos_keeps_phase v n s).of_eq_go⟩
  | writeChrXlate c n d st =>
    exact ⟨_, _, _, exec_writeChrXlate c n d st s, writeXlate_from c n d st s, fun _ => writeXlate_phase⟩
  | writeStr cs n st =>
    exact ⟨_, _, _, exec_writeStr cs n st s, writeString_from cs n st s,
      fun _ => (emitEntries_keeps raise_phase writePos_keeps_phase _ n st s).of_eq_go⟩
  | clear n l =>
    exact ⟨_, _, _, exec_clear n l s, writeString_from _ n false s,
      fun _ => (emitEntries_keeps raise_phase writePos_keeps_phase _ n false s).of_eq_go⟩
  | _ => cases hc

/-- Settles O19: the body of a command goes on, with no error and the phase of the table, or it raises, with one error
more in the log and the phase as it was. -/
theorem phaseTransitions : Obligations.PhaseTransitions := by
  intro s i hl hc
  obtain ⟨body, answer, n, he, hfrom, hphase⟩ := exec_command_body hc s
  rw [he]
  cases hb : body s with
  | go m =>
    exact ⟨_, runCommand_go hl hb, fun _ => hphase m hb, fun hne => absurd (hfrom.go m hb).errlog hne⟩
  | stop t =>
    have hr := hfrom.stop t hb
    obtain ⟨e, hlog, -⟩ := hr.error
    exact ⟨t, runCommand_stop hl hb, fun heq => by simp [hlog] at heq, fun _ => hr.phase⟩

end Sys2Proof.Machine
end

section
/-! SUPPORT. INIT as a command (spec/41_configuration.md R121, 60_exceptions.md R234, R236): its outcome where the transport
takes all 14 transactions and where it fails one, and the digit buffer after any number of its writes. -/

namespace Sys2Proof.Machine

open Sys2Proof

theorem initTransactions_length {s : State} (hw : s.cfg.wf = true) : (initTransactions s).length = 14 := by
  simp [initTransactions, initOrder_length hw]

theorem initWrites_length {s : State} (hw : s.cfg.wf = true) : (initWrites s).length = 14 := by
  rw [← initTransactions_length hw, ← initWrites_transactions, List.length_map]

/-- A write that gives no digit another value than 0x00. -/
def Write.Clears : Write → Prop
  | .reg a _ => NoDigit a
  | .digit _ v => v = 0x00#8

@[simp] theorem Write.clears_reg (a v : Byte) : (Write.reg a v).Clears ↔ NoDigit a := Iff.rfl

@[simp] theorem Write.clears_digit (p : Pos) (v : Byte) : (Write.digit p v).Clears ↔ v = 0x00#8 := Iff.rfl

theorem initWrites_clear (s : State) : ∀ w ∈ initWrites s, w.Clears := by
  simp only [initWrites, List.forall_mem_append, List.forall_mem_map, List.forall_mem_cons, List.not_mem_nil,
    Write.clears_reg, Write.clears_digit, IsEmpty.forall_iff, implies_true, and_true]
  decide

/-- One clearing write clears the digit whose transaction it is and leaves the others. -/
theorem Write.Clears.read_store {w : Write} (h : w.Clears) (m : Memory) (p : Pos) :
    Memory.read (w.store m) p = if w.transaction = ⟨digitAddr p, 0x00#8⟩ then 0x00#8 else Memory.read m p := by
  cases w with
  | reg a v => simp [Write.store, Write.transaction, h p]
  | digit q v =>
    cases h
    have hiff : digitAddr q = digitAddr p ↔ q = p := ⟨digitAddr_inj, congrArg digitAddr⟩
    simp [Write.store, Write.transaction, Memory.read_write, hiff]

/-- After clearing writes a digit is 0x00 if its transaction is among theirs, else as it was. -/
theorem read_storeAll {ws : List Write} (h : ∀ w ∈ ws, w.Clears) (m : Memory) (p : Pos) :
    Memory.read (storeAll ws m) p =
      if ⟨digitAddr p, 0x00#8⟩ ∈ ws.map Write.transaction then 0x00#8 else Memory.read m p := by
  induction ws generalizing m with
  | nil => simp [storeAll]
  | cons w ws ih =>
    obtain ⟨hw, hws⟩ := List.forall_mem_cons.1 h
    have hcons : storeAll (w :: ws) m = storeAll ws (w.store m) := rfl
    rw [hcons, ih hws, hw.read_store]
    by_cases hmem : ⟨digitAddr p, 0x00#8⟩ ∈ ws.map Write.transaction <;> simp [hmem, eq_comm]

theorem read_storeAll_initWrites (s : State) (m : Memory) (p : Pos) :
    Memory.read (storeAll (initWrites s) m) p =
      if ⟨digitAddr p, 0x00#8⟩ ∈ initTransactions s then 0x00#8 else Memory.read m p := by
  rw [read_storeAll (initWrites_clear s), initWrites_transactions]

/-- The digit buffer after the first `k` of INIT's writes. -/
theorem read_storeAll_take_initWrites (s : State) (k : Nat) (m : Memory) (p : Pos) :
    Memory.read (storeAll ((initWrites s).take k) m) p =
      if ⟨digitAddr p, 0x00#8⟩ ∈ (initTransactions s).take k then 0x00#8 else Memory.read m p := by
  rw [read_storeAll fun w hw => initWrites_clear s w (List.mem_of_mem_take hw), List.map_take, initWrites_transactions]

/-- The state after an INIT whose 14 transactions are taken (R121). -/
abbrev State.initialized (s : State) : State :=
  { s with
    buf := storeAll (initWrites s) s.buf, phase := .on, cs := .deasserted, transport := s.transport.drop 14,
    answers := s.answers ++ [.unit], trace := s.trace ++ initTransactions s }

/-- INIT where the transport takes its 14 transactions. -/
theorem exec_init_ok {s : State} (hl : s.live) (hw : s.cfg.wf = true) (h : s.accepts 14) :
    exec .init s = .next s.initialized := by
  have hrun := runWrites_ok (initWrites s) s (by rwa [initWrites_length hw])
  rw [initWrites_length hw, initWrites_transactions, if_neg (by simp [initWrites])] at hrun
  rw [exec_init, runCommand_go hl (by rw [initBody_eq, hrun]; rfl)]
  rfl

/-- INIT where the transport fails its k-th transaction: the writes before it stand, and its own store may have landed
or not. -/
theorem exec_init_fail {s : State} {k : Nat} {x : Transaction} (hl : s.live) (hx : (initTransactions s)[k]? = some x)
    (h : s.accepts k) (hf : s.answerAt k = .fail) :
    ∃ n cs, k ≤ n ∧ n ≤ k + 1 ∧
      exec .init s = .next { s with
        buf := storeAll ((initWrites s).take n) s.buf, cs := cs, trace := s.trace ++ (initTransactions s).take k,
        transport := s.transport.drop (k + 1),
        faulted := true, draws := s.draws + 1, errlog := s.errlog ++ [.transportError],
        answers := s.answers ++ [.error (.transport x.addr x.value)] } := by
  rw [← initWrites_transactions, List.getElem?_map, Option.map_eq_some_iff] at hx
  obtain ⟨w, hwk, rfl⟩ := hx
  obtain ⟨m, cs, hm, hrun⟩ := runWrites_fail (initWrites s) s k w hwk h hf
  rw [List.map_take, initWrites_transactions] at hrun
  have he := runCommand_stop (body := initBody) (answer := unitAnswer) hl (by rw [initBody_eq, hrun]; rfl)
  obtain rfl | rfl := hm
  · exact ⟨k, cs, le_rfl, Nat.le_succ k, he⟩
  · exact ⟨k + 1, cs, Nat.le_succ k, le_rfl, he⟩

/-- Settles O32: the buffer is the one after the first `k` or `k + 1` of INIT's writes, each of which clears the digit of
its transaction and no other. -/
theorem initStopsAtATransportFailure : Obligations.InitStopsAtATransportFailure := by
  intro s k hl hw hk h hf
  have hlen := initTransactions_length hw
  have hx : (initTransactions s)[k]? = some (initTransactions s)[k] := List.getElem?_eq_getElem (by omega)
  obtain ⟨n, cs, hkn, hnk, he⟩ := exec_init_fail hl hx h hf
  have hread := read_storeAll_take_initWrites s n s.buf
  refine ⟨_, _, hx, he, rfl, rfl, rfl, rfl, rfl, rfl, rfl, rfl, fun p => ?_, fun p hp => ?_, fun p hp => ?_⟩
  · exact (ite_eq_or_eq _ _ _).symm.imp (hread p).trans (hread p).trans
  · exact (hread p).trans (if_pos (List.take_subset_take_left _ hkn hp))
  · exact (hread p).trans (if_neg fun hmem => hp (List.take_subset_take_left _ hnk hmem))

/-- Settles O33: the second INIT starts with the same parameters and registers, hence sends the same transactions, and what
it clears was cleared already. -/
theorem secondInitRepeatsTheFirst : Obligations.SecondInitRepeatsTheFirst := by
  intro s hl hw h
  have hfirst := exec_init_ok hl hw (State.accepts_mono h (by omega))
  have hsecond := exec_init_ok (s := s.initialized) hl hw (State.accepts_drop (n := 14) rfl h)
  refine ⟨_, _, initTransactions s, hfirst, hsecond, initTransactions_length hw, rfl, rfl, fun p => ?_⟩
  show Memory.read (storeAll (initWrites s) (storeAll (initWrites s) s.buf)) p =
    Memory.read (storeAll (initWrites s) s.buf) p
  rw [read_storeAll_initWrites, read_storeAll_initWrites]
  split_ifs <;> rfl

end Sys2Proof.Machine
end

section
/-! SUPPORT. ON, OFF, the getters and the setters as commands (spec/41_configuration.md R122 to R129): each body's outcome
where the transport takes or fails its transaction, and the range checks of the setters. -/

namespace Sys2Proof.Machine

open Sys2Proof

/-- The body of ON and OFF, taken. -/
theorem writePower_ok {v : Byte} {ph : Phase} {s : State} (h : s.answerAt 0 = .ok) :
    (writeShutdown v s).andThen (setPhase ph) = .go { s.sent 0x0C#8 v with phase := ph } := by
  rw [writeShutdown, writeReg_ok h]
  rfl

/-- The body of ON and OFF, failed. -/
theorem writePower_fail {v : Byte} {ph : Phase} {s : State} (h : s.answerAt 0 = .fail) :
    (writeShutdown v s).andThen (setPhase ph) = .stop (s.sendFailed 0x0C#8 v) := by
  rw [writeShutdown, writeReg_fail h]
  rfl

/-- Settles O34: ON is its one transaction, and the phase where that is taken. -/
theorem onPowersTheDisplayOn : Obligations.OnPowersTheDisplayOn :=
  ⟨rfl, fun _ hl =>
    ⟨fun h => runCommand_go (body := onBody) hl (writePower_ok h),
     fun h => runCommand_stop (body := onBody) hl (writePower_fail h)⟩⟩

/-- Settles O35: OFF is its one transaction, and the phase where that is taken. -/
theorem offPowersTheDisplayOff : Obligations.OffPowersTheDisplayOff :=
  ⟨rfl, fun _ hl =>
    ⟨fun h => runCommand_go (body := offBody) hl (writePower_ok h),
     fun h => runCommand_stop (body := offBody) hl (writePower_fail h)⟩⟩

/-- Settles O36: a getter's body does nothing, so only its answer joins the state. -/
theorem gettersAnswerStoredValues : Obligations.GettersAnswerStoredValues :=
  ⟨rfl, rfl, rfl, fun _ hl =>
    ⟨runCommand_go (body := Flow.go) hl rfl, runCommand_go (body := Flow.go) hl rfl,
     runCommand_go (body := Flow.go) hl rfl⟩⟩

theorem checkByte_eq_none {value : Int} (h : value < 0 ∨ 255 < value) : checkByte value = none :=
  if_neg (by omega)

@[simp] theorem checkByte_toNat (v : Byte) : checkByte (v.toNat : Int) = some v := by
  have hv := v.isLt
  simp only [checkByte, if_pos (show 0 ≤ (v.toNat : Int) ∧ (v.toNat : Int) ≤ 255 by omega), BitVec.ofInt_natCast,
    BitVec.ofNat_toNat, BitVec.setWidth_eq]

theorem checkIntensity_eq_none {value : Int} (h : value < 0 ∨ 15 < value) : checkIntensity value = none :=
  if_neg (by omega)

@[simp] theorem checkIntensity_toNat (v : Nibble) : checkIntensity (v.toNat : Int) = some v := by
  have hv := v.isLt
  simp only [checkIntensity, if_pos (show 0 ≤ (v.toNat : Int) ∧ (v.toNat : Int) ≤ 15 by omega), BitVec.ofInt_natCast,
    BitVec.ofNat_toNat, BitVec.setWidth_eq]

theorem zext8_eq_ofNat (v : Nibble) : zext8 v = BitVec.ofNat 8 v.toNat := (BitVec.ofNat_toNat 8 v).symm

theorem setDecodeModeBody_outOfRange {value : Int} (h : value < 0 ∨ 255 < value) (s : State) :
    setDecodeModeBody value s = raiseNow (.valueRange value) s := by
  simp only [setDecodeModeBody, checkByte_eq_none h]

/-- In range, the new value is stored before the register is written (R126). -/
theorem setDecodeModeBody_toNat (v : Byte) (s : State) :
    setDecodeModeBody v.toNat s = writeReg 0x09#8 (if s.mirror then rev8 v else v) { s with decodeMode := v } := by
  simp only [setDecodeModeBody, checkByte_toNat]
  rfl

theorem setIntensityBody_outOfRange {value : Int} (h : value < 0 ∨ 15 < value) (s : State) :
    setIntensityBody value s = raiseNow (.intensityRange value) s := by
  simp only [setIntensityBody, checkIntensity_eq_none h]

/-- In range, the new value is stored before the register is written (R128). -/
theorem setIntensityBody_toNat (v : Nibble) (s : State) :
    setIntensityBody v.toNat s = writeReg 0x0A#8 (BitVec.ofNat 8 v.toNat) { s with intensity := v } := by
  simp only [setIntensityBody, checkIntensity_toNat, ← zext8_eq_ofNat]
  rfl

/-- Settles O37: out of range it is a raise; in range it is one register write from a state that holds the new value. -/
theorem setDecodeModeStoresAndSends : Obligations.SetDecodeModeStoresAndSends := by
  refine ⟨fun _ => rfl, fun s value hl => ⟨fun h => ?_, ?_⟩⟩
  · exact runCommand_stop hl (setDecodeModeBody_outOfRange h s)
  · rintro v rfl
    have hbody := setDecodeModeBody_toNat v s
    exact ⟨fun h => runCommand_go hl (hbody.trans (writeReg_ok h)),
      fun h => runCommand_stop hl (hbody.trans (writeReg_fail h))⟩

/-- Settles O38: out of range it is a raise; in range it is one register write from a state that holds the new value. -/
theorem setIntensityStoresAndSends : Obligations.SetIntensityStoresAndSends := by
  refine ⟨fun _ => rfl, fun s value hl => ⟨fun h => ?_, ?_⟩⟩
  · exact runCommand_stop hl (setIntensityBody_outOfRange h s)
  · rintro v rfl
    have hbody := setIntensityBody_toNat v s
    exact ⟨fun h => runCommand_go hl (hbody.trans (writeReg_ok h)),
      fun h => runCommand_stop hl (hbody.trans (writeReg_fail h))⟩

end Sys2Proof.Machine
end

section
/-! SUPPORT. The mirror transform (spec/42_mirror_transform.md R150 to R153): each stage of `rev8` moves bit k to a position
that differs from k in one bit of its number, so the three stages together reverse the byte. -/

namespace Sys2Proof.Machine

open Sys2Proof

theorem getLsbD_swapNibbles (v : Byte) {k : Nat} (hk : k < 8) : (swapNibbles v).getLsbD k = v.getLsbD (k ^^^ 4) := by
  interval_cases k <;> simp [swapNibbles]

theorem getLsbD_swapPairs (v : Byte) {k : Nat} (hk : k < 8) : (swapPairs v).getLsbD k = v.getLsbD (k ^^^ 2) := by
  interval_cases k <;> simp [swapPairs]

theorem getLsbD_swapBits (v : Byte) {k : Nat} (hk : k < 8) : (swapBits v).getLsbD k = v.getLsbD (k ^^^ 1) := by
  interval_cases k <;> simp [swapBits]

/-- Settles O39: the three stages flip the three bits of the position, which takes k to 7 - k. -/
theorem rev8ReversesBits : Obligations.Rev8ReversesBits := by
  intro v k hk
  have hpos : k ^^^ 1 < 8 ∧ k ^^^ 1 ^^^ 2 < 8 ∧ k ^^^ 1 ^^^ 2 ^^^ 4 = 7 - k := by
    revert k
    decide
  obtain ⟨h1, h2, h7⟩ := hpos
  rw [rev8, getLsbD_swapBits _ hk, getLsbD_swapPairs _ h1, getLsbD_swapNibbles _ h2, h7]

@[simp] theorem rev8_rev8 (v : Byte) : rev8 (rev8 v) = v :=
  BitVec.eq_of_getLsbD_eq fun k hk => by
    rw [rev8ReversesBits _ k hk, rev8ReversesBits _ (7 - k) (by omega), show 7 - (7 - k) = k by omega]

@[simp] theorem phys_false (i : Pos) : phys false i = i := rfl

@[simp] theorem phys_true_val (i : Pos) : (phys true i).val = 7 - i.val := rfl

@[simp] theorem phys_phys (m : Bool) (i : Pos) : phys m (phys m i) = i := by
  cases m with
  | false => rfl
  | true => exact Fin.ext (by simp only [phys_true_val]; omega)

theorem phys_inj {m : Bool} {i j : Pos} : phys m i = phys m j ↔ i = j :=
  (Function.LeftInverse.injective (phys_phys m)).eq_iff

/-- Settles O40: reversing positions twice, of a bit or of a digit, gives the position back. -/
theorem mirrorTransformsAreInvolutions : Obligations.MirrorTransformsAreInvolutions :=
  ⟨rev8_rev8, phys_phys, fun i => ⟨phys_true_val i, phys_false i⟩⟩

/-- Settles O41: mirrored, the value sent is `rev8` of the stored one, whose bit 7 - i is bit i of the stored one. -/
theorem sentDecodeBitsMatchStored : Obligations.SentDecodeBitsMatchStored := by
  intro s i
  cases hm : s.mirror with
  | false => simp [dmWire, hm]
  | true =>
    simp only [dmWire, hm, if_true, phys_true_val]
    rw [rev8ReversesBits _ (7 - i.val) (by omega), show 7 - (7 - i.val) = i.val by omega]

end Sys2Proof.Machine
end

section
/-! SUPPORT. The logical view (spec/42_mirror_transform.md R151, R154): two blocks that differ only in the mirror flag and
the places of the digits stay alike under every command body but GET_MIRROR's. INIT clears the digits by physical
position, so its two runs are alike at their ends only. -/

namespace Sys2Proof.Machine

open Sys2Proof

/-- Two blocks that look the same in the logical view, each with a transport that takes its next `n` transactions. -/
structure SameView (n : Nat) (s u : State) : Prop where
  cfg : s.cfg = u.cfg
  decodeMode : s.decodeMode = u.decodeMode
  intensity : s.intensity = u.intensity
  answers : s.answers = u.answers
  digits : ∀ p : Pos, s.logicalAt p = u.logicalAt p
  takenLeft : s.accepts n
  takenRight : u.accepts n

/-- Two runs that end alike: both went on, with `n` transactions to be taken still, or both raised. -/
inductive Flow.Alike (n : Nat) : Flow → Flow → Prop where
  | go {s u : State} (h : SameView n s u) : Flow.Alike n (.go s) (.go u)
  | stop {s u : State} (h : SameView 0 s u) : Flow.Alike n (.stop s) (.stop u)

/-- A body of at most `k` transactions that takes blocks that look the same to blocks that look the same. -/
def KeepsView (k : Nat) (body : State → Flow) : Prop :=
  ∀ (n : Nat) (s u : State), SameView (k + n) s u → Flow.Alike n (body s) (body u)

theorem SameView.mono {n m : Nat} {s u : State} (h : SameView n s u) (hm : m ≤ n) : SameView m s u :=
  { h with takenLeft := State.accepts_mono h.takenLeft hm, takenRight := State.accepts_mono h.takenRight hm }

theorem Flow.Alike.mono {n m : Nat} {x y : Flow} (h : Flow.Alike n x y) (hm : m ≤ n) : Flow.Alike m x y := by
  cases h with
  | go h => exact .go (h.mono hm)
  | stop h => exact .stop h

theorem KeepsView.mono {k l : Nat} {body : State → Flow} (h : KeepsView k body) (hl : k ≤ l) : KeepsView l body :=
  fun n s u hv => (h (l - k + n) s u (hv.mono (by omega))).mono (by omega)

theorem KeepsView.andThen {k l : Nat} {body next : State → Flow} (hb : KeepsView k body) (hn : KeepsView l next) :
    KeepsView (k + l) fun s => (body s).andThen next := by
  intro n s u h
  rw [Nat.add_assoc] at h
  have hx := hb _ s u h
  show Flow.Alike n ((body s).andThen next) ((body u).andThen next)
  generalize body s = x, body u = y at hx
  cases hx with
  | go h => exact hn n _ _ h
  | stop h => exact .stop h

theorem go_keepsView : KeepsView 0 Flow.go := fun _ _ _ h => .go (h.mono (by omega))

theorem SameView.answered {n : Nat} {s u : State} (h : SameView n s u) (a : Answer) :
    SameView n (s.answered a) (u.answered a) :=
  { h with answers := congrArg (· ++ [a]) h.answers }

theorem raiseNow_keepsView (e : Error) : KeepsView 0 (raiseNow e) :=
  fun _ _ _ h => .stop { h.answered (.error e) with takenLeft := nofun, takenRight := nofun }

theorem setPhase_keepsView (ph : Phase) : KeepsView 0 (setPhase ph) :=
  fun _ _ _ h => .go { h.mono (by omega) with }

/-- A register write is invisible in the logical view, whatever its register and value are on each side. -/
theorem writeReg_sameView {n : Nat} {s u : State} (h : SameView (1 + n) s u) (a v b w : Byte) :
    Flow.Alike n (writeReg a v s) (writeReg b w u) := by
  rw [Nat.add_comm] at h
  rw [writeReg_ok (State.accepts_zero h.takenLeft), writeReg_ok (State.accepts_zero h.takenRight)]
  exact .go { h with
    takenLeft := State.accepts_tail rfl h.takenLeft
    takenRight := State.accepts_tail rfl h.takenRight }

/-- A digit write replaces one digit of the logical view, mirrored or not (R151). -/
theorem logicalAt_wrote (s : State) (i j : Pos) (v : Byte) :
    (s.wrote (phys s.mirror i) v).logicalAt j = if i = j then v else s.logicalAt j := by
  show Memory.read (Memory.write s.buf (phys s.mirror i) v) (phys s.mirror j) = _
  simp only [Memory.read_write, phys_inj]
  rfl

theorem digitWrite_keepsView (i : Pos) (v : Byte) : KeepsView 1 (digitWrite i v) := by
  intro n s u h
  rw [Nat.add_comm] at h
  simp only [digitWrite, writePos_ok (State.accepts_zero h.takenLeft), writePos_ok (State.accepts_zero h.takenRight)]
  exact .go { h with
    digits := fun j => by rw [logicalAt_wrote, logicalAt_wrote, h.digits]
    takenLeft := State.accepts_tail rfl h.takenLeft
    takenRight := State.accepts_tail rfl h.takenRight }

theorem writeRaw_keepsView (value index : Int) : KeepsView 1 (writeRaw value index) := by
  unfold writeRaw
  cases checkIndex index with
  | none => exact (raiseNow_keepsView _).mono (by omega)
  | some i =>
    cases checkByte value with
    | none => exact (raiseNow_keepsView _).mono (by omega)
    | some v => exact digitWrite_keepsView i v

/-- The translation reads the parameters and the logical decode mode only (R173, R179). -/
theorem writeXlate_keepsView (c : Char8) (index : Int) (dot strict : Bool) :
    KeepsView 1 (writeXlate c index dot strict) := by
  intro n s u h
  unfold writeXlate
  rw [h.cfg, h.decodeMode]
  cases checkIndex index with
  | none => exact (raiseNow_keepsView _).mono (by omega) n s u h
  | some i =>
    dsimp only
    cases xlateCode u.cfg u.decodeMode c i dot strict with
    | none => exact (raiseNow_keepsView _).mono (by omega) n s u h
    | some v => exact digitWrite_keepsView i v n s u h

theorem emitEntries_keepsView (es : List Entry) (pos : Int) (strict : Bool) :
    KeepsView es.length (emitEntries es pos strict) := by
  induction es generalizing pos with
  | nil => exact go_keepsView
  | cons e es ih =>
    by_cases hpos : 8 ≤ pos
    · simpa only [emitEntries, if_pos hpos] using go_keepsView.mono (Nat.zero_le _)
    · rw [List.length_cons, Nat.add_comm]
      simpa only [emitEntries, if_neg hpos] using (writeXlate_keepsView e.char pos e.dot strict).andThen (ih (pos + 1))

theorem writeString_keepsView (cs : List Char8) (start : Int) (strict : Bool) :
    KeepsView 8 (writeString cs start strict) :=
  (emitEntries_keepsView _ start strict).mono (layout_length_le cs)

theorem setDecodeModeBody_keepsView (value : Int) : KeepsView 1 (setDecodeModeBody value) := by
  unfold setDecodeModeBody
  cases checkByte value with
  | none => exact (raiseNow_keepsView _).mono (by omega)
  | some v =>
    intro n s u h
    exact writeReg_sameView (s := { s with decodeMode := v }) (u := { u with decodeMode := v })
      { h with decodeMode := rfl } _ _ _ _

theorem setIntensityBody_keepsView (value : Int) : KeepsView 1 (setIntensityBody value) := by
  unfold setIntensityBody
  cases checkIntensity value with
  | none => exact (raiseNow_keepsView _).mono (by omega)
  | some v =>
    intro n s u h
    exact writeReg_sameView (s := { s with intensity := v }) (u := { u with intensity := v })
      { h with intensity := rfl } _ _ _ _

theorem writePower_keepsView (v : Byte) (ph : Phase) :
    KeepsView 1 fun s => (writeShutdown v s).andThen (setPhase ph) :=
  KeepsView.andThen (fun _ _ _ h => writeReg_sameView h _ v _ v) (setPhase_keepsView ph)

/-- A command whose body keeps the logical view, and whose result is read off it. -/
theorem runCommand_sameView {k : Nat} {body : State → Flow} {answer : State → Answer} {s u s' u' : State}
    (hb : KeepsView k body) (ha : ∀ s u, SameView 0 s u → answer s = answer u) (h : SameView k s u)
    (hs : runCommand body answer s = .next s') (hu : runCommand body answer u = .next u') : SameView 0 s' u' := by
  have hend : Flow.Alike 0 (body s) (body u) := hb 0 s u h
  obtain ⟨hls, -⟩ := runCommand_cases hs
  obtain ⟨hlu, -⟩ := runCommand_cases hu
  generalize hx : body s = x, hy : body u = y at hend
  cases hend with
  | go hm =>
    rw [runCommand_go hls hx] at hs
    rw [runCommand_go hlu hy, ← ha _ _ hm] at hu
    cases hs
    cases hu
    exact hm.answered _
  | stop hm =>
    rw [runCommand_stop hls hx] at hs
    rw [runCommand_stop hlu hy] at hu
    cases hs
    cases hu
    exact hm

theorem mem_initOrder {c : Config} (hw : c.wf = true) (p : Pos) : p ∈ c.initOrder := by
  simp only [Config.wf, Bool.and_eq_true, decide_eq_true_eq] at hw
  obtain ⟨hlen, hnodup⟩ := hw
  have huniv : c.initOrder.toFinset = Finset.univ :=
    Finset.eq_univ_of_card _ (by rw [List.toFinset_card_of_nodup hnodup, hlen]; rfl)
  exact List.mem_toFinset.1 (huniv ▸ Finset.mem_univ p)

/-- INIT leaves every digit at 0x00, in the physical view and so in the logical one (R121). -/
theorem logicalAt_initialized {s : State} (hw : s.cfg.wf = true) (p : Pos) : s.initialized.logicalAt p = 0x00#8 := by
  refine (read_storeAll_initWrites s s.buf _).trans (if_pos ?_)
  simp [initTransactions, mem_initOrder hw]

/-- INIT clears the same digits in both blocks, since it clears all of them. -/
theorem exec_init_sameView {s u s' u' : State} (hw : s.cfg.wf = true) (h : SameView 14 s u)
    (hs : exec .init s = .next s') (hu : exec .init u = .next u') : SameView 0 s' u' := by
  have hwu : u.cfg.wf = true := h.cfg ▸ hw
  rw [exec_init_ok (runCommand_cases hs).1 hw h.takenLeft] at hs
  rw [exec_init_ok (runCommand_cases hu).1 hwu h.takenRight] at hu
  cases hs
  cases hu
  exact { h.answered .unit with
    digits := fun p => (logicalAt_initialized hw p).trans (logicalAt_initialized hwu p).symm
    takenLeft := nofun
    takenRight := nofun }

/-- Every command but GET_MIRROR keeps the logical view. -/
theorem exec_sameView {i : Instr} {s u s' u' : State} (hc : i.isCommand = true) (hm : i ≠ .getMirror)
    (hw : s.cfg.wf = true) (h : SameView 14 s u) (hs : exec i s = .next s') (hu : exec i u = .next u') :
    SameView 0 s' u' := by
  have hunit : ∀ s u, SameView 0 s u → unitAnswer s = unitAnswer u := fun _ _ _ => rfl
  have hdm : ∀ s u, SameView 0 s u → decodeModeAnswer s = decodeModeAnswer u :=
    fun _ _ hv => congrArg Answer.u8 hv.decodeMode
  have hint : ∀ s u, SameView 0 s u → intensityAnswer s = intensityAnswer u :=
    fun _ _ hv => congrArg Answer.u4 hv.intensity
  cases i with
  | init => exact exec_init_sameView hw h hs hu
  | on => exact runCommand_sameView (writePower_keepsView 0x01#8 .on) hunit (h.mono (by omega)) hs hu
  | off => exact runCommand_sameView (writePower_keepsView 0x00#8 .off) hunit (h.mono (by omega)) hs hu
  | getDecodeMode => exact runCommand_sameView go_keepsView hdm (h.mono (by omega)) hs hu
  | setDecodeMode v => exact runCommand_sameView (setDecodeModeBody_keepsView v) hdm (h.mono (by omega)) hs hu
  | getIntensity => exact runCommand_sameView go_keepsView hint (h.mono (by omega)) hs hu
  | setIntensity v => exact runCommand_sameView (setIntensityBody_keepsView v) hint (h.mono (by omega)) hs hu
  | getMirror => exact absurd rfl hm
  | writeChrRaw v n => exact runCommand_sameView (writeRaw_keepsView v n) hunit (h.mono (by omega)) hs hu
  | writeChrXlate c n d st =>
    exact runCommand_sameView (writeXlate_keepsView c n d st) hunit (h.mono (by omega)) hs hu
  | writeStr cs n st => exact runCommand_sameView (writeString_keepsView cs n st) hunit (h.mono (by omega)) hs hu
  | clear n l => exact runCommand_sameView (writeString_keepsView (blanks l) n false) hunit (h.mono (by omega)) hs hu
  | _ => cases hc

/-- Settles O30: the premises say that the two blocks look the same, and every command but GET_MIRROR keeps that. -/
theorem mirroringIsInvisibleLogically : Obligations.MirroringIsInvisibleLogically := by
  intro i s u s' u' hc hm hcfg hw hdm hint hans hdig hts htu hs hu
  have hend := exec_sameView hc hm hw ⟨hcfg, hdm, hint, hans, hdig, hts, htu⟩ hs hu
  exact ⟨hend.answers, hend.decodeMode, hend.intensity, hend.digits⟩

end Sys2Proof.Machine
end

section
/-! SUPPORT. The character tables (spec/43_translator.md R170 to R172): a lookup finds exactly the keys, and the code of a key
stands where the key stands. -/

namespace Sys2Proof

theorem lookupIn_isSome_iff {ks : List Char8} {vs : List Byte} (h : ks.length ≤ vs.length) (c : Char8) :
    (lookupIn ks vs c).isSome ↔ c ∈ ks := by
  induction ks generalizing vs with
  | nil => simp [lookupIn]
  | cons k ks ih =>
    cases vs with
    | nil => simp at h
    | cons v vs =>
      rw [List.mem_cons, ← ih (Nat.le_of_succ_le_succ h), lookupIn]
      by_cases hc : c = k <;> simp [hc]

/-- In a table without repeated keys a key is found at its own place. -/
theorem lookupIn_of_getElem? {ks : List Char8} (hd : ks.Nodup) (vs : List Byte) {k : Nat} {c : Char8}
    (h : ks[k]? = some c) : lookupIn ks vs c = vs[k]? := by
  induction ks generalizing vs k with
  | nil => cases h
  | cons x ks ih =>
    obtain ⟨hx, hd⟩ := List.nodup_cons.1 hd
    cases vs with
    | nil => rfl
    | cons v vs =>
      cases k with
      | zero =>
        cases h
        exact if_pos rfl
      | succ k =>
        have hne : c ≠ x := fun hc => hx (hc ▸ List.mem_of_getElem? h)
        exact (if_neg hne).trans (ih hd vs h)

theorem builtinKeys_nodup : builtinKeys.Nodup := by decide

theorem extKeys_nodup : extKeys.Nodup := by decide

theorem mem_builtinKeys_iff (c : Char8) :
    c ∈ builtinKeys ↔
      (0x30#8 ≤ c ∧ c ≤ 0x39#8) ∨ c = 0x2D#8 ∨ c = 0x45#8 ∨ c = 0x48#8 ∨ c = 0x4C#8 ∨ c = 0x50#8 ∨ c = 0x20#8 := by
  simp only [builtinKeys, List.cons_append, List.nil_append, List.mem_cons, List.not_mem_nil, or_false]
  bv_omega

theorem mem_extKeys_iff (c : Char8) :
    c ∈ extKeys ↔
      (0x30#8 ≤ c ∧ c ≤ 0x39#8) ∨ (0x41#8 ≤ c ∧ c ≤ 0x46#8) ∨ (0x61#8 ≤ c ∧ c ≤ 0x66#8) ∨ c = 0x2D#8 ∨ c = 0x20#8 := by
  simp only [extKeys, List.cons_append, List.nil_append, List.mem_cons, List.not_mem_nil, or_false]
  bv_omega

theorem builtinCode_isSome_iff (cfg : Config) (c : Char8) : (cfg.builtinCode c).isSome ↔ c ∈ builtinKeys :=
  lookupIn_isSome_iff (by simp [builtinKeys]) c

theorem extCode_isSome_iff (cfg : Config) (c : Char8) : (cfg.extCode c).isSome ↔ c ∈ extKeys :=
  lookupIn_isSome_iff (by simp [extKeys]) c

theorem builtinCode_of_key (cfg : Config) {k : Nat} {c : Char8} (h : builtinKeys[k]? = some c) :
    cfg.builtinCode c = cfg.builtin[k]? :=
  (lookupIn_of_getElem? builtinKeys_nodup _ h).trans Vector.getElem?_toList

theorem extCode_of_key (cfg : Config) {k : Nat} {c : Char8} (h : extKeys[k]? = some c) :
    cfg.extCode c = cfg.ext[k]? :=
  (lookupIn_of_getElem? extKeys_nodup _ h).trans Vector.getElem?_toList

/-- Settles O42: a lookup finds the members of the key list, which are the characters listed, each at its own place. -/
theorem tablesHoldExactlyTheirKeys : Obligations.TablesHoldExactlyTheirKeys := fun cfg c =>
  ⟨(builtinCode_isSome_iff cfg c).trans (mem_builtinKeys_iff c), (extCode_isSome_iff cfg c).trans (mem_extKeys_iff c),
    fun _ h => builtinCode_of_key cfg h, fun _ h => extCode_of_key cfg h⟩

end Sys2Proof
end

section
/-! SUPPORT. The translation (spec/43_translator.md R172 to R179): `xlateCode` by what the selected table holds, for a character
other than '.', and for '.' as the dotted space. -/

namespace Sys2Proof.Machine

open Sys2Proof

/-- ' ' is a key of both tables (R175). -/
theorem selectLookup_chrSpace_isSome (cfg : Config) (dm : Byte) (i : Pos) : (selectLookup cfg dm i chrSpace).isSome := by
  unfold selectLookup
  split
  · exact (builtinCode_isSome_iff cfg chrSpace).2 (by decide)
  · exact (extCode_isSome_iff cfg chrSpace).2 (by decide)

/-- '.' is a key of neither table (R175). -/
theorem ne_chrDot_of_selectLookup {cfg : Config} {dm v : Byte} {i : Pos} {c : Char8}
    (h : selectLookup cfg dm i c = some v) : c ≠ chrDot := by
  have hs : (selectLookup cfg dm i c).isSome := Option.isSome_of_eq_some h
  rintro rfl
  unfold selectLookup at hs
  split at hs
  · exact absurd ((builtinCode_isSome_iff cfg chrDot).1 hs) (by decide)
  · exact absurd ((extCode_isSome_iff cfg chrDot).1 hs) (by decide)

/-- A key of the selected table gets its code (R179). -/
theorem xlateCode_of_some {cfg : Config} {dm v : Byte} {c : Char8} {i : Pos} (h : selectLookup cfg dm i c = some v)
    (dot strict : Bool) : xlateCode cfg dm c i dot strict = some (withDot v dot) := by
  simp only [xlateCode, undotChar, undotFlag, if_neg (ne_chrDot_of_selectLookup h), h]

/-- Any other character but '.' gets the fallback, or no code under `strict` (R173, R179). -/
theorem xlateCode_of_none {cfg : Config} {dm : Byte} {c : Char8} {i : Pos} (hc : c ≠ chrDot)
    (h : selectLookup cfg dm i c = none) (dot strict : Bool) :
    xlateCode cfg dm c i dot strict = if strict then none else some (withDot (fallback dm i) dot) := by
  simp only [xlateCode, undotChar, undotFlag, if_neg hc, h]

/-- '.' is the dotted space (R175). -/
theorem xlateCode_chrDot (cfg : Config) (dm : Byte) (i : Pos) (dot strict : Bool) :
    xlateCode cfg dm chrDot i dot strict = xlateCode cfg dm chrSpace i true strict := rfl

/-- The fallback with its dot, written out (R173, R179). -/
theorem withDot_fallback (dm : Byte) (i : Pos) (dot : Bool) :
    withDot (fallback dm i) dot =
      if dot then (if dm.getLsbD i.val then 0x8F#8 else 0x80#8) else (if dm.getLsbD i.val then 0x0F#8 else 0x00#8) := by
  unfold withDot fallback
  split_ifs <;> rfl

/-- The dot as a value or'd in, set or not (R179). -/
theorem withDot_eq_or (v : Byte) (dot : Bool) : withDot v dot = v ||| if dot then 0x80#8 else 0x00#8 := by
  cases dot <;> simp [withDot, dotBit]

/-- Settles O43: a key has its code, another character the fallback or none, and '.' is the dotted space, a key of both
tables. -/
theorem translationFunction : Obligations.TranslationFunction := by
  intro cfg dm c i dot strict
  refine ⟨fun _ v h => xlateCode_of_some h dot strict, fun hc h => xlateCode_of_none hc h dot true, fun hc h => ?_, ?_⟩
  · rw [xlateCode_of_none hc h, withDot_fallback]
    rfl
  · rintro rfl
    obtain ⟨v, hv⟩ := Option.isSome_iff_exists.1 (selectLookup_chrSpace_isSome cfg dm i)
    exact ⟨v, hv, (xlateCode_chrDot cfg dm i dot strict).trans (xlateCode_of_some hv true strict)⟩

end Sys2Proof.Machine
end

section
/-! SUPPORT. The digit commands (spec/43_translator.md R174 to R180): which body runs for which operands, and what a command
that comes down to one digit write does where the transport takes or fails it. -/

namespace Sys2Proof.Machine

open Sys2Proof

theorem checkIndex_eq_none {index : Int} (h : index < 0 ∨ 7 < index) : checkIndex index = none :=
  dif_neg (by omega)

@[simp] theorem checkIndex_val (i : Pos) : checkIndex (i.val : Int) = some i :=
  (dif_pos (by omega)).trans (congrArg some (Fin.ext (Int.toNat_natCast i.val)))

theorem writeXlate_outOfRange {index : Int} (h : index < 0 ∨ 7 < index) (c : Char8) (dot strict : Bool) (s : State) :
    writeXlate c index dot strict s = raiseNow (.bounds index) s := by
  simp only [writeXlate, checkIndex_eq_none h]

theorem writeXlate_of_none {s : State} {c : Char8} {i : Pos} {dot strict : Bool}
    (h : xlateCode s.cfg s.decodeMode c i dot strict = none) :
    writeXlate c i.val dot strict s = raiseNow (.translation c i.val) s := by
  simp only [writeXlate, checkIndex_val, h]

theorem writeXlate_of_some {s : State} {c : Char8} {i : Pos} {dot strict : Bool} {v : Byte}
    (h : xlateCode s.cfg s.decodeMode c i dot strict = some v) :
    writeXlate c i.val dot strict s = digitWrite i v s := by
  simp only [writeXlate, checkIndex_val, h]

theorem writeRaw_indexOutOfRange {index : Int} (h : index < 0 ∨ 7 < index) (value : Int) (s : State) :
    writeRaw value index s = raiseNow (.bounds index) s := by
  simp only [writeRaw, checkIndex_eq_none h]

theorem writeRaw_valueOutOfRange {value : Int} (h : value < 0 ∨ 255 < value) (i : Pos) (s : State) :
    writeRaw value i.val s = raiseNow (.valueRange value) s := by
  simp only [writeRaw, checkIndex_val, checkByte_eq_none h]

theorem writeRaw_toNat (v : Byte) (i : Pos) (s : State) : writeRaw v.toNat i.val s = digitWrite i v s := by
  simp only [writeRaw, checkIndex_val, checkByte_toNat]

section
variable {body : State → Flow} {s : State} {i : Pos} {v : Byte}

/-- A command that is one digit write, taken. -/
theorem runCommand_digitWrite_ok (hl : s.live) (hb : body s = digitWrite i v s) (h : s.answerAt 0 = .ok) :
    runCommand body unitAnswer s = .next ((s.wrote (phys s.mirror i) v).answered .unit) :=
  runCommand_go hl (hb.trans (writePos_ok h))

/-- A command that is one digit write, failed. -/
theorem runCommand_digitWrite_fail (hl : s.live) (hb : body s = digitWrite i v s) (h : s.answerAt 0 = .fail) :
    runCommand body unitAnswer s = .next (s.wroteFailed (phys s.mirror i) v) :=
  runCommand_stop hl (hb.trans (writePos_fail h))

end

/-- The buffer of a failed digit write: the old or the new element, the others as they were (R234). -/
theorem read_wroteFailed (s : State) (p : Pos) (v : Byte) :
    (Memory.read (s.wroteFailed p v).buf p = v ∨ Memory.read (s.wroteFailed p v).buf p = Memory.read s.buf p) ∧
    ∀ q : Pos, q ≠ p → Memory.read (s.wroteFailed p v).buf q = Memory.read s.buf q := by
  dsimp only
  split
  · exact ⟨.inl (Memory.read_write_same _ _ _), fun q hq => Memory.read_write_other _ _ q _ hq⟩
  · exact ⟨.inr rfl, fun _ _ => rfl⟩

/-- Settles O44: out of bounds and without a code it is a raise; with a code it is one digit write. -/
theorem writeChrXlateWritesOneDigit : Obligations.WriteChrXlateWritesOneDigit := by
  intro s c index dot strict hl
  refine ⟨fun h => runCommand_stop hl (writeXlate_outOfRange h c dot strict s), ?_⟩
  rintro i rfl
  refine ⟨fun h => runCommand_stop hl (writeXlate_of_none h), fun v hv hok => ?_⟩
  exact ⟨_, runCommand_digitWrite_ok hl (writeXlate_of_some hv) hok, Memory.read_write_same _ _ _,
    fun q hq => Memory.read_write_other _ _ q _ hq⟩

/-- Settles O45: out of bounds and out of range it is a raise; with a byte it is one digit write. -/
theorem writeChrRawWritesOneDigit : Obligations.WriteChrRawWritesOneDigit := by
  intro s value index hl
  refine ⟨fun h => runCommand_stop hl (writeRaw_indexOutOfRange h value s), ?_⟩
  rintro i rfl
  refine ⟨fun h => runCommand_stop hl (writeRaw_valueOutOfRange h i s), ?_⟩
  rintro v rfl hok
  exact ⟨_, runCommand_digitWrite_ok hl (writeRaw_toNat v i s) hok, Memory.read_write_same _ _ _,
    fun q hq => Memory.read_write_other _ _ q _ hq⟩

/-- Settles O46: both commands come down to one digit write, and a failed one leaves the old or the new element. -/
theorem failedDigitWriteLeavesOldOrNew : Obligations.FailedDigitWriteLeavesOldOrNew := by
  intro s i p v hl hfail hi
  have hexec : exec i s = .next (s.wroteFailed (phys s.mirror p) v) := by
    obtain ⟨c, d, st, rfl, hv⟩ | rfl := hi
    · exact runCommand_digitWrite_fail hl (writeXlate_of_some hv) hfail
    · exact runCommand_digitWrite_fail hl (writeRaw_toNat v p s) hfail
  exact ⟨_, hexec, read_wroteFailed s (phys s.mirror p) v⟩

/-- Settles O47: the key's code is what the one digit write stores at its logical position. -/
theorem translationLaw : Obligations.TranslationLaw := by
  intro s c i d st v hl hok hv
  refine ⟨_, runCommand_digitWrite_ok hl (writeXlate_of_some (xlateCode_of_some hv d st)) hok, ?_⟩
  calc State.logicalAt (s.wrote (phys s.mirror i) (withDot v d)) i
    _ = withDot v d := (logicalAt_wrote s i i _).trans (if_pos rfl)
    _ = v ||| if d then 0x80#8 else 0x00#8 := withDot_eq_or v d

end Sys2Proof.Machine
end

section
/-! SUPPORT. The layout scan (spec/44_layout.md R200 to R203): one equation per case of a character, what every character does
to the entries collected so far, and how the layout of a string continues with further characters. -/

namespace Sys2Proof.Machine

open Sys2Proof

@[simp] theorem lastIsDotted_concat (es : List Entry) (e : Entry) : lastIsDotted (es ++ [e]) = e.dot := by
  simp [lastIsDotted]

@[simp] theorem dotLast_concat (es : List Entry) (e : Entry) : dotLast (es ++ [e]) = es ++ [{ e with dot := true }] := by
  induction es with
  | nil => rfl
  | cons f es ih => cases es <;> exact congrArg (f :: ·) ih

theorem scan_char_of_room {c : Char8} {es : List Entry} (hc : c ≠ chrDot) (h : es.length < 8) (cs : List Char8) :
    scan (c :: cs) es = scan cs (es ++ [⟨c, false⟩]) := by
  simp [scan, hc, Nat.ne_of_lt h]

theorem scan_char_of_full {c : Char8} {es : List Entry} (hc : c ≠ chrDot) (h : es.length = 8) (cs : List Char8) :
    scan (c :: cs) es = es := by
  simp [scan, hc, h]

theorem scan_dot_of_room {es : List Entry} (hd : lastIsDotted es = true) (h : es.length < 8) (cs : List Char8) :
    scan (chrDot :: cs) es = scan cs (es ++ [⟨chrDot, true⟩]) := by
  simp [scan, hd, h]

theorem scan_dot_of_full {es : List Entry} (hd : lastIsDotted es = true) (h : 8 ≤ es.length) (cs : List Char8) :
    scan (chrDot :: cs) es = scan cs es := by
  simp [scan, hd, Nat.not_lt.2 h]

theorem scan_dot_merges {es : List Entry} (hd : lastIsDotted es = false) (cs : List Char8) :
    scan (chrDot :: cs) es = scan cs (dotLast es) := by
  simp [scan, hd]

/-- An entry whose character is '.' has its dot flag set (R203). -/
def DotsAreDotted (es : List Entry) : Prop := ∀ e ∈ es, e.char = chrDot → e.dot = true

theorem DotsAreDotted.concat {es : List Entry} (h : DotsAreDotted es) {e : Entry} (he : e.char = chrDot → e.dot = true) :
    DotsAreDotted (es ++ [e]) :=
  List.forall_mem_append.2 ⟨h, by simpa using he⟩

theorem DotsAreDotted.dotLast {es : List Entry} (h : DotsAreDotted es) : DotsAreDotted (dotLast es) := by
  obtain rfl | ⟨es, e, rfl⟩ := List.eq_nil_or_concat' es
  · exact h
  · rw [dotLast_concat]
    exact DotsAreDotted.concat (List.forall_mem_append.1 h).1 fun _ => rfl

/-- Everything one character can do: it ends the scan at a full buffer, or the scan goes on with entries that are no fewer
and that keep their dots. -/
theorem scan_cons_cases (c : Char8) (es : List Entry) (h : es.length ≤ 8) :
    (es.length = 8 ∧ ∀ cs, scan (c :: cs) es = es) ∨
    ∃ fs, (∀ cs, scan (c :: cs) es = scan cs fs) ∧ es.length ≤ fs.length ∧ fs.length ≤ 8 ∧
      (DotsAreDotted es → DotsAreDotted fs) := by
  by_cases hc : c = chrDot
  · subst hc
    cases hd : lastIsDotted es with
    | false => exact .inr ⟨_, scan_dot_merges hd, (dotLast_length es).ge, (dotLast_length es).trans_le h, .dotLast⟩
    | true =>
      by_cases hroom : es.length < 8
      · exact .inr ⟨_, scan_dot_of_room hd hroom, by simp, by simpa using hroom, fun hes => hes.concat fun _ => rfl⟩
      · exact .inr ⟨_, scan_dot_of_full hd (Nat.not_lt.1 hroom), le_rfl, h, id⟩
  · by_cases hroom : es.length < 8
    · exact .inr ⟨_, scan_char_of_room hc hroom, by simp, by simpa using hroom, fun hes => hes.concat (absurd · hc)⟩
    · exact .inl ⟨by omega, scan_char_of_full hc (by omega)⟩

theorem le_length_scan (cs : List Char8) {es : List Entry} (h : es.length ≤ 8) : es.length ≤ (scan cs es).length := by
  induction cs generalizing es with
  | nil => exact le_rfl
  | cons c cs ih =>
    obtain ⟨-, heq⟩ | ⟨fs, heq, hle, hfs, -⟩ := scan_cons_cases c es h <;> rw [heq]
    exact hle.trans (ih hfs)

theorem scan_dotsAreDotted (cs : List Char8) {es : List Entry} (h : es.length ≤ 8) (hd : DotsAreDotted es) :
    DotsAreDotted (scan cs es) := by
  induction cs generalizing es with
  | nil => exact hd
  | cons c cs ih =>
    obtain ⟨-, heq⟩ | ⟨fs, heq, -, hfs, hkeep⟩ := scan_cons_cases c es h <;> rw [heq]
    · exact hd
    · exact ih hfs (hkeep hd)

/-- Settles O48: the scan starts with no entries, and every character keeps both properties. -/
theorem layoutIsBounded : Obligations.LayoutIsBounded :=
  fun cs => ⟨layout_length_le cs, scan_dotsAreDotted cs (Nat.zero_le 8) nofun⟩

/-- Where room is left after the first characters, the scan has not ended and goes on from there. -/
theorem scan_append_of_room {cs : List Char8} {es : List Entry} (h : es.length ≤ 8) (hroom : (scan cs es).length < 8)
    (ds : List Char8) : scan (cs ++ ds) es = scan ds (scan cs es) := by
  induction cs generalizing es with
  | nil => rfl
  | cons c cs ih =>
    rw [List.cons_append]
    obtain ⟨hfull, heq⟩ | ⟨fs, heq, -, hfs, -⟩ := scan_cons_cases c es h <;> rw [heq] at hroom
    · omega
    · rw [heq, heq, ih hfs hroom]

/-- Where the first characters fill the buffer, a character other than '.' ends the scan, if it has not ended before (R201). -/
theorem scan_append_of_full {cs : List Char8} {es : List Entry} (h : es.length ≤ 8) (hfull : (scan cs es).length = 8)
    {c : Char8} (hc : c ≠ chrDot) (rest : List Char8) : scan (cs ++ c :: rest) es = scan cs es := by
  induction cs generalizing es with
  | nil => exact scan_char_of_full hc hfull rest
  | cons d cs ih =>
    rw [List.cons_append]
    obtain ⟨-, heq⟩ | ⟨fs, heq, -, hfs, -⟩ := scan_cons_cases d es h
    · rw [heq, heq]
    · rw [heq] at hfull
      rw [heq, heq, ih hfs hfull]

/-- A character that comes while there is room does not end the scan. -/
theorem scan_cons_of_room {es : List Entry} (h : es.length < 8) (c : Char8) (ds : List Char8) :
    scan (c :: ds) es = scan ds (scan [c] es) := by
  obtain ⟨hfull, -⟩ | ⟨fs, heq, -⟩ := scan_cons_cases c es h.le
  · omega
  · rw [heq, heq]
    rfl

theorem layout_append_of_room {cs : List Char8} (h : (layout cs).length < 8) (ds : List Char8) :
    layout (cs ++ ds) = scan ds (layout cs) :=
  scan_append_of_room (es := []) (Nat.zero_le 8) h ds

/-- The scan has not ended after the first character that finds no room left behind it. -/
theorem layout_concat_append_of_room {cs : List Char8} (h : (layout cs).length < 8) (c : Char8) (ds : List Char8) :
    layout (cs ++ [c] ++ ds) = scan ds (layout (cs ++ [c])) := by
  rw [List.append_assoc, layout_append_of_room h, layout_append_of_room h]
  exact scan_cons_of_room h c ds

/-- Dots are dropped at a full buffer that ends dotted (R202, D12). -/
theorem scan_replicate_dot_of_full {es : List Entry} (hd : lastIsDotted es = true) (h : es.length = 8) (n : Nat) :
    scan (List.replicate n chrDot) es = es := by
  induction n with
  | zero => rfl
  | succ n ih => rw [List.replicate_succ, scan_dot_of_full hd h.ge, ih]

/-- Dots at a full buffer leave its last entry dotted, merged or dotted before (R202). -/
theorem scan_replicate_succ_dot_of_full {es : List Entry} {x : Char8} {d : Bool}
    (h : (es ++ [(⟨x, d⟩ : Entry)]).length = 8) (n : Nat) :
    scan (List.replicate (n + 1) chrDot) (es ++ [⟨x, d⟩]) = es ++ [⟨x, true⟩] := by
  cases d with
  | true => exact scan_replicate_dot_of_full (lastIsDotted_concat _ _) h (n + 1)
  | false =>
    rw [List.replicate_succ, scan_dot_merges (lastIsDotted_concat _ _), dotLast_concat]
    exact scan_replicate_dot_of_full (lastIsDotted_concat _ _) (by simpa using h) n

/-- Settles O49: with room left the scan goes on with the character, by its equation; at a full buffer it ends, or the dots
merge and are dropped. -/
theorem layoutOfOneMoreCharacter : Obligations.LayoutOfOneMoreCharacter := by
  intro cs c
  refine ⟨fun hroom => ⟨fun hc => ?_, fun hnil => ?_, fun es x hes => ?_, fun es x hes => ?_⟩,
    fun hfull hc rest => scan_append_of_full (es := []) (Nat.zero_le 8) hfull hc rest, fun hroom hfull n es x d hes => ?_⟩
  · rw [layout_append_of_room hroom, scan_char_of_room hc hroom]
    rfl
  · rw [layout_append_of_room hroom, hnil]
    rfl
  · rw [layout_append_of_room hroom]
    rw [hes] at hroom ⊢
    exact (scan_dot_of_room (lastIsDotted_concat _ _) hroom []).trans (List.append_assoc _ _ _)
  · rw [layout_append_of_room hroom, hes]
    exact (scan_dot_merges (lastIsDotted_concat _ _) []).trans (dotLast_concat _ _)
  · rw [hes] at hfull
    rw [layout_concat_append_of_room hroom, hes]
    exact scan_replicate_succ_dot_of_full hfull n

theorem scan_of_no_dots {cs : List Char8} (hcs : ∀ c ∈ cs, c ≠ chrDot) {es : List Entry} (h : es.length ≤ 8) :
    scan cs es = es ++ (cs.take (8 - es.length)).map fun c => ⟨c, false⟩ := by
  induction cs generalizing es with
  | nil => simp [scan]
  | cons c cs ih =>
    obtain ⟨hc, hcs⟩ := List.forall_mem_cons.1 hcs
    obtain hfull | hroom := Nat.eq_or_lt_of_le h
    · simp [scan_char_of_full hc hfull, hfull]
    · rw [scan_char_of_room hc hroom, ih hcs (by simpa using hroom),
        show 8 - es.length = (8 - (es ++ [⟨c, false⟩] : List Entry).length) + 1 by simp; omega]
      simp

/-- Settles O50: without dots the scan appends each character until the buffer is full. -/
theorem dotlessStringsAreTruncated : Obligations.DotlessStringsAreTruncated :=
  fun _ hcs => scan_of_no_dots hcs (Nat.zero_le 8)

end Sys2Proof.Machine
end

section
/-! SUPPORT. The emission of WRITE_STR (spec/44_layout.md R204, R205): entries that have codes come down to a list of digit
writes, the entries after them run from there, and the digit buffer after such writes in the logical view. -/

namespace Sys2Proof.Machine

open Sys2Proof

theorem emitEntries_of_ge {pos : Int} (h : 8 ≤ pos) (es : List Entry) (strict : Bool) (s : State) :
    emitEntries es pos strict s = .go s := by
  cases es with
  | nil => rfl
  | cons e es => exact if_pos h

theorem emitEntries_cons_of_lt {pos : Int} (h : pos < 8) (e : Entry) (es : List Entry) (strict : Bool) (s : State) :
    emitEntries (e :: es) pos strict s = (writeXlate e.char pos e.dot strict s).andThen (emitEntries es (pos + 1) strict) :=
  if_neg (Int.not_le.2 h)

/-- The entries after `es` are emitted from the position after those of `es`. -/
theorem emitEntries_append (es fs : List Entry) (pos : Int) (strict : Bool) (s : State) :
    emitEntries (es ++ fs) pos strict s =
      (emitEntries es pos strict s).andThen (emitEntries fs (pos + es.length) strict) := by
  induction es generalizing pos s with
  | nil => simp [emitEntries]
  | cons e es ih =>
    by_cases h : 8 ≤ pos
    · rw [emitEntries_of_ge h, emitEntries_of_ge h, Flow.andThen_go, emitEntries_of_ge (by omega)]
    · rw [List.cons_append, emitEntries_cons_of_lt (by omega), emitEntries_cons_of_lt (by omega), andThen_assoc]
      refine andThen_congr fun t _ => ?_
      rw [ih, List.length_cons, Nat.cast_succ, Int.add_assoc, Int.add_comm 1]

theorem posOfNat_of_val_eq {i : Pos} {n : Nat} (h : i.val = n) : Fin.ofNat 8 n = i := h ▸ Fin.ofNat_val_eq_self i

/-- `vs` are the codes of the entries `es` from logical position `pos` on (R179, R204). -/
structure CodesOf (cfg : Config) (dm : Byte) (strict : Bool) (pos : Nat) (es : List Entry) (vs : List Byte) : Prop where
  length : vs.length = es.length
  code : ∀ (k : Nat) (e : Entry) (i : Pos), es[k]? = some e → i.val = pos + k →
    xlateCode cfg dm e.char i e.dot strict = vs[k]?

section
variable {cfg : Config} {dm : Byte} {strict : Bool} {pos : Nat} {es : List Entry} {vs : List Byte}

/-- Entries that can all be translated have codes. -/
theorem exists_codesOf (h : ∀ (k : Nat) (e : Entry) (i : Pos), es[k]? = some e → i.val = pos + k →
    (xlateCode cfg dm e.char i e.dot strict).isSome) : ∃ vs, CodesOf cfg dm strict pos es vs := by
  refine ⟨es.mapIdx fun k e => (xlateCode cfg dm e.char (Fin.ofNat 8 (pos + k)) e.dot strict).getD 0x00#8,
    List.length_mapIdx, fun k e i he hi => ?_⟩
  obtain ⟨v, hv⟩ := Option.isSome_iff_exists.1 (h k e i he hi)
  simp only [List.getElem?_mapIdx, he, posOfNat_of_val_eq hi, hv, Option.map_some, Option.getD_some]

/-- The same for the first `n` of the entries. -/
theorem exists_codesOf_take {n : Nat} (h : ∀ (k : Nat) (e : Entry) (i : Pos), k < n → es[k]? = some e → i.val = pos + k →
      (xlateCode cfg dm e.char i e.dot strict).isSome) : ∃ vs, CodesOf cfg dm strict pos (es.take n) vs :=
  exists_codesOf fun k e i he hi => by
    rw [List.getElem?_take, Option.ite_none_right_eq_some] at he
    obtain ⟨hk, he⟩ := he
    exact h k e i hk he hi

theorem CodesOf.code_take {n k : Nat} (h : CodesOf cfg dm strict pos (es.take n) vs) (hk : k < n)
    {e : Entry} {i : Pos} (he : es[k]? = some e) (hi : i.val = pos + k) : xlateCode cfg dm e.char i e.dot strict = vs[k]? :=
  h.code k e i ((List.getElem?_take_of_lt hk).trans he) hi

theorem CodesOf.cons {e : Entry} (h : CodesOf cfg dm strict pos (e :: es) vs) :
    ∃ v ws, vs = v :: ws ∧ (∀ i : Pos, i.val = pos → xlateCode cfg dm e.char i e.dot strict = some v) ∧
      CodesOf cfg dm strict (pos + 1) es ws := by
  obtain ⟨v, ws, rfl⟩ := List.exists_cons_of_length_eq_add_one h.length
  exact ⟨v, ws, rfl, fun i hi => h.code 0 e i rfl hi,
    Nat.succ.inj h.length, fun k f i hf hi => h.code (k + 1) f i hf (by omega)⟩

end

/-- The digit writes of the values `vs` from logical position `pos` on (R151, R177). -/
def digitWrites (mirror : Bool) : Nat → List Byte → List Write
  | _, [] => []
  | pos, v :: vs => .digit (phys mirror (Fin.ofNat 8 pos)) v :: digitWrites mirror (pos + 1) vs

@[simp] theorem digitWrites_length (mirror : Bool) (pos : Nat) (vs : List Byte) :
    (digitWrites mirror pos vs).length = vs.length := by
  induction vs generalizing pos with
  | nil => rfl
  | cons v vs ih => exact congrArg (· + 1) (ih (pos + 1))

theorem digitWrites_getElem? (mirror : Bool) {pos k : Nat} {vs : List Byte} {i : Pos} {v : Byte} (hv : vs[k]? = some v)
    (hi : i.val = pos + k) : (digitWrites mirror pos vs)[k]? = some (.digit (phys mirror i) v) := by
  induction vs generalizing pos k with
  | nil => cases hv
  | cons w vs ih =>
    cases k with
    | zero =>
      cases hv
      rw [digitWrites, posOfNat_of_val_eq (n := pos) hi]
      rfl
    | succ k => exact ih hv (by omega)

theorem digitWrites_take (mirror : Bool) (pos k : Nat) (vs : List Byte) :
    (digitWrites mirror pos vs).take k = digitWrites mirror pos (vs.take k) := by
  induction vs generalizing pos k with
  | nil => simp [digitWrites]
  | cons v vs ih =>
    cases k with
    | zero => rfl
    | succ k => exact congrArg (_ :: ·) (ih (pos + 1) k)

/-- A digit before or after the written positions is as it was. -/
theorem read_storeAll_digitWrites_outside (mirror : Bool) {pos : Nat} {vs : List Byte} (hw : vs.length ≤ 8 - pos)
    {i : Pos} (hi : i.val < pos ∨ pos + vs.length ≤ i.val) (m : Memory) :
    Memory.read (storeAll (digitWrites mirror pos vs) m) (phys mirror i) = Memory.read m (phys mirror i) := by
  induction vs generalizing pos m with
  | nil => rfl
  | cons v vs ih =>
    rw [List.length_cons] at hw hi
    have hne : i ≠ Fin.ofNat 8 pos := Fin.ne_of_val_ne (by rw [Fin.val_ofNat, Nat.mod_eq_of_lt (by omega)]; omega)
    exact (ih (by omega) (by omega) _).trans (Memory.read_write_other _ _ _ _ (phys_inj.not.2 hne))

/-- The k-th written position holds the k-th value. -/
theorem read_storeAll_digitWrites (mirror : Bool) {pos k : Nat} {vs : List Byte} (hw : vs.length ≤ 8 - pos) {i : Pos}
    {v : Byte} (hv : vs[k]? = some v) (hi : i.val = pos + k) (m : Memory) :
    Memory.read (storeAll (digitWrites mirror pos vs) m) (phys mirror i) = v := by
  induction vs generalizing pos k m with
  | nil => cases hv
  | cons w vs ih =>
    rw [List.length_cons] at hw
    cases k with
    | zero =>
      cases hv
      have hrest := read_storeAll_digitWrites_outside mirror (pos := pos + 1) (vs := vs) (by omega) (i := i)
        (.inl (by omega)) (Memory.write m (phys mirror i) v)
      rw [digitWrites, posOfNat_of_val_eq (n := pos) hi]
      exact hrest.trans (Memory.read_write_same _ _ _)
    | succ k => exact ih (by omega) hv (by omega) _

/-- Entries with codes, all within the window, come down to the digit writes of their codes (R204, R205). -/
theorem emitEntries_of_codesOf {s : State} {strict : Bool} {pos : Nat} {es : List Entry} {vs : List Byte}
    (h : CodesOf s.cfg s.decodeMode strict pos es vs) (hw : es.length ≤ 8 - pos) :
    emitEntries es pos strict s = runWrites (digitWrites s.mirror pos vs) s := by
  induction es generalizing s pos vs with
  | nil =>
    obtain rfl := List.eq_nil_of_length_eq_zero h.length
    rfl
  | cons e es ih =>
    rw [List.length_cons] at hw
    obtain ⟨v, ws, rfl, hv, hws⟩ := h.cons
    have hpos : (Fin.ofNat 8 pos).val = pos := Nat.mod_eq_of_lt (by omega)
    have hhead := writeXlate_of_some (hv _ hpos)
    rw [hpos] at hhead
    rw [emitEntries_cons_of_lt (by omega), hhead]
    refine andThen_congr fun t ht => ?_
    have hreach := (writePos_from _ v s).go t ht
    have hdm : t.decodeMode = s.decodeMode := congrArg Prod.fst ((writePos_keeps_registers _ v s).of_eq_go ht)
    rw [← hreach.mirror]
    exact ih (pos := pos + 1) (by rwa [hreach.cfg, hdm]) (by omega)

/-- WRITE_STR's body, cut where the entries with codes end: their digit writes, then the rest. -/
theorem writeString_of_codesOf {s : State} {cs : List Char8} {start n : Nat} {strict : Bool} {vs : List Byte}
    (h : CodesOf s.cfg s.decodeMode strict start ((layout cs).take n) vs) (hw : vs.length ≤ 8 - start) :
    writeString cs start strict s =
      (runWrites (digitWrites s.mirror start vs) s).andThen
        (emitEntries ((layout cs).drop n) (start + vs.length : Nat) strict) := by
  conv_lhs => rw [writeString, ← List.take_append_drop n (layout cs)]
  rw [emitEntries_append, emitEntries_of_codesOf h (h.length ▸ hw), Nat.cast_add, h.length]

/-- The state after the digit writes of the values `vs` from logical position `pos` on, all taken. -/
abbrev State.emitted (s : State) (pos : Nat) (vs : List Byte) : State :=
  let ts := (digitWrites s.mirror pos vs).map Write.transaction
  { s with
    buf := storeAll (digitWrites s.mirror pos vs) s.buf, cs := if ts = [] then s.cs else .deasserted,
    transport := s.transport.drop ts.length, trace := s.trace ++ ts }

theorem runWrites_digitWrites_ok {s : State} {vs : List Byte} (h : s.accepts vs.length) (pos : Nat) :
    runWrites (digitWrites s.mirror pos vs) s = .go (s.emitted pos vs) := by
  rw [runWrites_ok _ _ (by rwa [digitWrites_length])]
  simp only [State.emitted, List.map_eq_nil_iff, List.length_map]

/-- `t` has the digit buffer of `s` after the digit writes of the values `vs` from logical position `pos` on, all within the
window. -/
structure Displays (s : State) (pos : Nat) (vs : List Byte) (t : State) : Prop where
  mirror : t.mirror = s.mirror
  buf : t.buf = storeAll (digitWrites s.mirror pos vs) s.buf
  window : vs.length ≤ 8 - pos

theorem Displays.logicalAt_written {s t : State} {pos k : Nat} {vs : List Byte} (h : Displays s pos vs t) {i : Pos}
    {v : Byte} (hv : vs[k]? = some v) (hi : i.val = pos + k) : t.logicalAt i = v := by
  rw [State.logicalAt, State.bufAt, h.mirror, h.buf, read_storeAll_digitWrites _ h.window hv hi]

theorem Displays.logicalAt_outside {s t : State} {pos : Nat} {vs : List Byte} (h : Displays s pos vs t) {i : Pos}
    (hi : i.val < pos ∨ pos + vs.length ≤ i.val) : t.logicalAt i = s.logicalAt i := by
  rw [State.logicalAt, State.bufAt, h.mirror, h.buf, read_storeAll_digitWrites_outside _ h.window hi]
  rfl

end Sys2Proof.Machine
end

section
/-! SUPPORT. WRITE_STR and CLEAR as commands (spec/44_layout.md R204 to R207; 60_exceptions.md R234, R236): the entries
within the window are written, up to the first that has no code or whose digit write fails. -/

namespace Sys2Proof.Machine

open Sys2Proof

/-- Settles O51: the entries within the window come down to digit writes, and those after them are not reached. -/
theorem writeStrWritesItsEntries : Obligations.WriteStrWritesItsEntries := by
  intro s cs start strict hl ha hcodes
  obtain ⟨vs, hvs⟩ := exists_codesOf_take (n := min (layout cs).length (8 - start)) fun k e i _ => hcodes k e i
  have hlen : vs.length = min (layout cs).length (8 - start) := by
    rw [hvs.length, List.length_take, min_eq_left (min_le_left _ _)]
  have hw : vs.length ≤ 8 - start := hlen ▸ min_le_right _ _
  have hbody : writeString cs start strict s = .go (s.emitted start vs) := by
    rw [writeString_of_codesOf hvs hw, runWrites_digitWrites_ok (hlen ▸ ha), Flow.andThen_go]
    obtain hle | hlt := Nat.le_total (layout cs).length (8 - start)
    · rw [min_eq_left hle, List.drop_length]
      rfl
    · exact emitEntries_of_ge (by omega) _ _ _
  refine ⟨_, _, runCommand_go hl hbody, by simp [hlen], fun k e i he hi => ?_, fun q hq => ?_⟩
  · have hk : k < vs.length := by
      have := (List.getElem?_eq_some_iff.1 he).1
      omega
    have hv : vs[k]? = some vs[k] := List.getElem?_eq_getElem hk
    exact ⟨vs[k], (hvs.code_take (hlen ▸ hk) he hi).trans hv,
      by rw [List.getElem?_map, digitWrites_getElem? _ hv hi]; rfl, read_storeAll_digitWrites _ hw hv hi _⟩
  · have hout := hq (phys s.mirror q)
    rw [phys_phys] at hout
    have hread := read_storeAll_digitWrites_outside s.mirror hw (i := phys s.mirror q)
      (by by_contra; exact hout (by omega) (by omega) rfl) s.buf
    rwa [phys_phys] at hread

/-- Settles O52: after the digit writes of the entries before it, the entry without a code is a raise. -/
theorem writeStrStopsAtAnUnknownCharacter : Obligations.WriteStrStopsAtAnUnknownCharacter := by
  intro s cs start k e i hl ha he hi hnone hcodes
  obtain ⟨vs, hvs⟩ := exists_codesOf_take hcodes
  obtain ⟨hk, rfl⟩ := List.getElem?_eq_some_iff.1 he
  have hlen : vs.length = k := by
    rw [hvs.length, List.length_take, min_eq_left hk.le]
  have hw : vs.length ≤ 8 - start := by omega
  have hbody : writeString cs start true s =
      .stop (raise (.translation (layout cs)[k].char i.val) (s.emitted start vs)) := by
    rw [writeString_of_codesOf hvs hw, runWrites_digitWrites_ok (hlen.symm ▸ ha), Flow.andThen_go,
      List.drop_eq_getElem_cons hk, hlen, ← hi, emitEntries_cons_of_lt (by omega),
      writeXlate_of_none (s := s.emitted start vs) hnone]
    rfl
  have hdisp : ∀ err, Displays s start vs (raise err (s.emitted start vs)) := fun _ => ⟨rfl, rfl, hw⟩
  refine ⟨_, runCommand_stop hl hbody, rfl, rfl, hl, ⟨_, rfl, by simp [hlen]⟩, fun j f n hj hf hn => ?_, fun n hn => ?_⟩
  · have hv : vs[j]? = some vs[j] := List.getElem?_eq_getElem (hlen.symm ▸ hj)
    rw [hvs.code_take hj hf hn, hv, (hdisp _).logicalAt_written hv hn]
  · exact (hdisp _).logicalAt_outside (hlen.symm ▸ hn)

/-- WRITE_STR's body whose k-th digit write the transport fails: the writes before it stand, and its own store may have
landed or not. -/
theorem writeString_fail {s : State} {cs : List Char8} {start k : Nat} {strict : Bool} {vs : List Byte} {i : Pos} {v : Byte}
    (h : CodesOf s.cfg s.decodeMode strict start ((layout cs).take (k + 1)) vs) (hw : vs.length ≤ 8 - start)
    (hv : vs[k]? = some v) (hi : i.val = start + k) (ha : s.accepts k) (hf : s.answerAt k = .fail) :
    ∃ t n, writeString cs start strict s = .stop t ∧ k ≤ n ∧ n ≤ k + 1 ∧ Displays s start (vs.take n) t ∧
      t.errlog = s.errlog ++ [.transportError] ∧
      t.answers = s.answers ++ [.error (.transport (digitAddr (phys s.mirror i)) v)] ∧
      t.faulted = true ∧ t.phase = s.phase ∧
      t.trace = s.trace ++ ((digitWrites s.mirror start vs).take k).map Write.transaction := by
  obtain ⟨m, cs', hm, hrun⟩ := runWrites_fail _ s k _ (digitWrites_getElem? s.mirror hv hi) ha hf
  rw [digitWrites_take, digitWrites_take] at hm
  have hbody := (writeString_of_codesOf h hw).trans (congrArg (Flow.andThen · _) hrun)
  have hwin : ∀ n, (vs.take n).length ≤ 8 - start := fun n => (List.length_take_le' n vs).trans hw
  obtain rfl | rfl := hm
  · exact ⟨_, k, hbody, le_rfl, Nat.le_succ k, ⟨rfl, rfl, hwin k⟩, rfl, rfl, rfl, rfl, rfl⟩
  · exact ⟨_, k + 1, hbody, Nat.le_succ k, le_rfl, ⟨rfl, rfl, hwin (k + 1)⟩, rfl, rfl, rfl, rfl, rfl⟩

/-- Settles O53: the buffer is the one after the first `k` or `k + 1` digit writes. -/
theorem writeStrStopsAtATransportFailure : Obligations.WriteStrStopsAtATransportFailure := by
  intro s cs start k strict e i v hl ha hf he hi hcode hcodes
  obtain ⟨vs, hvs⟩ := exists_codesOf_take (n := k + 1) fun j f n hj hf hn => by
    obtain hj | rfl := Nat.lt_succ_iff_lt_or_eq.1 hj
    · exact hcodes j f n hj hf hn
    · obtain rfl : e = f := Option.some.inj (he.symm.trans hf)
      obtain rfl : n = i := Fin.ext (hn.trans hi.symm)
      exact Option.isSome_of_eq_some hcode
  have hlen : vs.length = k + 1 := by
    rw [hvs.length, List.length_take, min_eq_left (List.getElem?_eq_some_iff.1 he).1]
  have hv : vs[k]? = some v := (hvs.code_take (Nat.lt_succ_self k) he hi).symm.trans hcode
  obtain ⟨t, n, hbody, hkn, hnk, hdisp, hlog, hans, hfault, hphase, htr⟩ := writeString_fail hvs (by omega) hv hi ha hf
  have hlenn : (vs.take n).length = n := by
    rw [List.length_take, hlen, min_eq_left hnk]
  refine ⟨t, runCommand_stop hl hbody, hlog, hans, hfault, hphase, ⟨_, htr, by simp [hlen]⟩, ?_, fun j f p hj hf hp => ?_,
    fun p hp => hdisp.logicalAt_outside (by omega)⟩
  · obtain rfl | hlt := Nat.eq_or_lt_of_le hkn
    · exact .inl (hdisp.logicalAt_outside (by omega))
    · exact .inr (hdisp.logicalAt_written ((List.getElem?_take_of_lt hlt).trans hv) hi)
  · have hvj : vs[j]? = some vs[j] := List.getElem?_eq_getElem (by omega)
    rw [hvs.code_take (by omega) hf hp, hvj,
      hdisp.logicalAt_written ((List.getElem?_take_of_lt (by omega)).trans hvj) hp]

/-- The first character of a string is always placed. -/
theorem layout_cons_eq_scan (c : Char8) (cs : List Char8) : ∃ e, layout (c :: cs) = scan cs [e] := by
  by_cases hc : c = chrDot
  · subst hc
    exact ⟨_, scan_dot_of_room (es := []) rfl (Nat.zero_lt_succ 7) cs⟩
  · exact ⟨_, scan_char_of_room (es := []) hc (Nat.zero_lt_succ 7) cs⟩

theorem layout_ne_nil {cs : List Char8} (h : cs ≠ []) : layout cs ≠ [] := by
  obtain ⟨c, cs, rfl⟩ := List.exists_cons_of_ne_nil h
  obtain ⟨e, he⟩ := layout_cons_eq_scan c cs
  rw [he]
  exact List.ne_nil_of_length_pos (le_length_scan cs (es := [e]) (Nat.succ_le_succ (Nat.zero_le 7)))

/-- WRITE_STR's body with something to write before position 0 (R205). -/
theorem writeString_of_neg {start : Int} (h : start < 0) {cs : List Char8} (hcs : cs ≠ []) (strict : Bool) (s : State) :
    writeString cs start strict s = .stop (raise (.bounds start) s) := by
  obtain ⟨e, es, hes⟩ := List.exists_cons_of_ne_nil (layout_ne_nil hcs)
  rw [writeString, hes, emitEntries_cons_of_lt (by omega), writeXlate_outOfRange (.inl h)]
  rfl

theorem blanks_of_nonpos {length : Int} (h : length ≤ 0) : blanks length = [] := by
  rw [blanks, Int.toNat_of_nonpos h, List.replicate_zero]

theorem blanks_ne_nil {length : Int} (h : 0 < length) : blanks length ≠ [] := by
  rw [blanks, Ne, List.replicate_eq_nil_iff]
  omega

/-- Settles O54: without entries and past the window the body does nothing; before the window its first entry is a raise. -/
theorem writeStrAndClearOutsideTheWindow : Obligations.WriteStrAndClearOutsideTheWindow := by
  intro s cs start length strict hl
  refine ⟨runCommand_go hl rfl, fun h => runCommand_go hl (emitEntries_of_ge h _ _ _),
    fun h hcs => runCommand_stop hl (writeString_of_neg h hcs _ _), fun h => ?_,
    fun h => runCommand_go hl (emitEntries_of_ge h _ _ _),
    fun h hlen => runCommand_stop hl (writeString_of_neg h (blanks_ne_nil hlen) _ _)⟩
  rw [exec_clear, blanks_of_nonpos h]
  exact runCommand_go hl rfl

/-- The layout of CLEAR's string (R201, R206). -/
theorem layout_replicate_space (length : Nat) :
    layout (List.replicate length chrSpace) = List.replicate (min 8 length) ⟨chrSpace, false⟩ := by
  rw [dotlessStringsAreTruncated _ fun c hc => (List.eq_of_mem_replicate hc).symm ▸ (by decide),
    List.take_replicate, List.map_replicate]

/-- A blank is translated to the ' ' code of its position's table (R206). -/
theorem exists_code_of_blank (s : State) (i : Pos) :
    ∃ v, selectLookup s.cfg s.decodeMode i chrSpace = some v ∧
      xlateCode s.cfg s.decodeMode chrSpace i false false = some v := by
  obtain ⟨v, hv⟩ := Option.isSome_iff_exists.1 (selectLookup_chrSpace_isSome s.cfg s.decodeMode i)
  exact ⟨v, hv, xlateCode_of_some hv false false⟩

/-- Settles O55: CLEAR is the WRITE_STR of blanks, each of which has a code at its position. -/
theorem clearBlanksItsRange : Obligations.ClearBlanksItsRange := by
  intro s start length hl ha
  have hlay := layout_replicate_space length
  have hmin : min (min 8 length) (8 - start) = min length (8 - start) := by omega
  have hcodes : ∀ (k : Nat) (e : Entry) (i : Pos), (layout (List.replicate length chrSpace))[k]? = some e →
      i.val = start + k → (xlateCode s.cfg s.decodeMode e.char i e.dot false).isSome := fun k e i he _ => by
    obtain rfl : e = ⟨chrSpace, false⟩ := List.eq_of_mem_replicate (hlay ▸ List.mem_of_getElem? he)
    obtain ⟨v, -, hv⟩ := exists_code_of_blank s i
    exact Option.isSome_of_eq_some hv
  obtain ⟨m, ts, hexec, hlen, hin, hout⟩ := writeStrWritesItsEntries s (List.replicate length chrSpace) start false hl
    (by rwa [hlay, List.length_replicate, hmin]) hcodes
  rw [hlay, List.length_replicate] at hlen hout
  refine ⟨m, ts, hexec, hlen.trans hmin, fun i hge hlt => ?_, fun q hq => hout q fun i hge hlt => hq i hge (by omega)⟩
  have hentry : (layout (List.replicate length chrSpace))[i.val - start]? = some ⟨chrSpace, false⟩ := by
    rw [hlay, List.getElem?_replicate_of_lt (by omega)]
  obtain ⟨v, hlook, hv⟩ := exists_code_of_blank s i
  obtain ⟨w, hw, hrest⟩ := hin _ _ i hentry (by omega)
  obtain rfl : v = w := Option.some.inj (hv.symm.trans hw)
  exact ⟨v, hlook, hrest⟩

end Sys2Proof.Machine
end

section
/-! SUPPORT. The exceptions (spec/60_exceptions.md R230 to R241): a faulted block is stuck, an illegal record raises and
changes nothing else, every instruction raises one error at most, and where a command that is no string command raises
without a fault, it raised before it did anything. -/

namespace Sys2Proof.Machine

open Sys2Proof

/-- Every register-write row is a bare write of a register (R76, R80). -/
theorem exec_row {i : Instr} (hc : i.isCommand = false) (s : State) : ∃ a v, exec i s = runWrite a v s := by
  cases i with
  | wrNoop v | wrDigit0 v | wrDigit1 v | wrDigit2 v | wrDigit3 v | wrDigit4 v | wrDigit5 v | wrDigit6 v | wrDigit7 v
  | wrDecodeMode v | wrIntensity v | wrScanLimit v | wrShutdown v | wrDisplayTest v => exact ⟨_, v, rfl⟩
  | _ => cases hc

/-- No instruction of a faulted block has a meaning (R237). -/
theorem exec_of_faulted {s : State} (h : s.faulted = true) (i : Instr) : exec i s = .fault .blockFaulted := by
  cases hc : i.isCommand with
  | true =>
    obtain ⟨body, answer, -, he, -⟩ := exec_command_body hc s
    exact he.trans (runCommand_faulted h)
  | false =>
    obtain ⟨a, v, he⟩ := exec_row hc s
    exact he.trans (runWrite_faulted h)

/-- An instruction that answers a next state was run by a block that is not faulted (R237). -/
theorem live_of_exec {i : Instr} {s t : State} (h : exec i s = .next t) : s.live := by
  cases hs : s.faulted with
  | true => rw [exec_of_faulted hs] at h; cases h
  | false => exact hs

theorem step_of_faulted {s : State} (h : s.faulted = true) : step s = .fault .blockFaulted := by
  simp [step, h]

/-- Settles O16: neither an instruction nor a step of a faulted block gets past the check of the flag. -/
theorem faultedBlockIsStuck : Obligations.FaultedBlockIsStuck :=
  fun _ h => ⟨exec_of_faulted h, step_of_faulted h⟩

/-- Settles O12: the record decodes to its illegal `op`, which raises, and the raise settles as the end of the run. -/
theorem illegalCommandRaises : Obligations.IllegalCommandRaises := by
  intro s r hl hp he hr hop
  rw [step_of_fetch hl hp he hr, issueRecord_of_illegalOp ((recordDecodingIsTotal r).1 hop), illegalCommand_of_live hl,
    settleOutcome, settle_of_error (raise_answers _ s)]
  rfl

/-- Settles O24: an instruction that raises nothing keeps the log and the flag, and every error is delivered once, with
the flag set for TransportError only. -/
theorem atMostOneErrorPerCommand : Obligations.AtMostOneErrorPerCommand := by
  intro i s t h
  have hl := live_of_exec h
  obtain ⟨m, a, hm, rfl⟩ | ht | ⟨-, a, v, rfl | rfl⟩ := exec_cases h
  · exact .inl ⟨hm.errlog, hm.faulted.trans hl⟩
  · obtain ⟨e, hlog, hans, ⟨hcode, hf⟩ | ⟨hcode, hf, -⟩⟩ := ht.error
    · exact .inr ⟨e, hlog, hans, iff_of_true hf hcode⟩
    · exact .inr ⟨e, hlog, hans, iff_of_false (by simp [hf, hl]) hcode⟩
  · exact .inl ⟨rfl, hl⟩
  · exact .inr ⟨.transport a v, rfl, rfl, iff_of_true rfl rfl⟩

/-! ### Where a command raises without a fault -/

/-- A body that started in `s` raises in place: where it ends with an error, the block is faulted, or all that happened
to `s` is that the error was logged and answered (R236). -/
def Flow.RaisesInPlace (x : Flow) (s : State) : Prop := ∀ t, x = .stop t → t.faulted = true ∨ ∃ e, t = s.errored e

theorem go_raisesInPlace (m s : State) : (Flow.go m).RaisesInPlace s := fun _ h => by cases h

theorem stop_raisesInPlace_of_faulted {t : State} (ht : t.faulted = true) (s : State) : (Flow.stop t).RaisesInPlace s :=
  fun _ h => by cases h; exact .inl ht

theorem raiseNow_raisesInPlace (e : Error) (s : State) : (raiseNow e s).RaisesInPlace s :=
  fun _ h => by cases h; exact .inr ⟨e, rfl⟩

/-- Setting the phase cannot raise, so it adds no error to the body before it. -/
theorem Flow.RaisesInPlace.andThen_setPhase {x : Flow} {s : State} (hx : x.RaisesInPlace s) (ph : Phase) :
    (x.andThen (setPhase ph)).RaisesInPlace s := by
  cases x with
  | go m => exact go_raisesInPlace _ s
  | stop m => exact hx

/-- A register write raises by a failed transaction only, whatever was stored before it (R234). -/
theorem writeReg_raisesInPlace (a v : Byte) (m s : State) : (writeReg a v m).RaisesInPlace s := by
  obtain ⟨-, h⟩ | ⟨-, h⟩ := writeReg_cases a v m <;> rw [h]
  · exact go_raisesInPlace _ s
  · exact stop_raisesInPlace_of_faulted rfl s

theorem writePos_raisesInPlace (p : Pos) (v : Byte) (s : State) : (writePos p v s).RaisesInPlace s := by
  obtain ⟨-, h⟩ | ⟨-, h⟩ := writePos_cases p v s <;> rw [h]
  · exact go_raisesInPlace _ s
  · exact stop_raisesInPlace_of_faulted rfl s

theorem initBody_raisesInPlace (s : State) : (initBody s).RaisesInPlace s := by
  rw [initBody_eq]
  refine Flow.RaisesInPlace.andThen_setPhase ?_ .on
  obtain ⟨m, h, -⟩ | ⟨m, h, hf⟩ := runWrites_cases (initWrites s) s <;> rw [h]
  · exact go_raisesInPlace m s
  · exact stop_raisesInPlace_of_faulted hf s

theorem writePower_raisesInPlace (v : Byte) (ph : Phase) (s : State) :
    ((writeShutdown v s).andThen (setPhase ph)).RaisesInPlace s :=
  (writeReg_raisesInPlace _ v s s).andThen_setPhase ph

/-- SET_DECODE_MODE checks the range before it stores (R126). -/
theorem setDecodeModeBody_raisesInPlace (value : Int) (s : State) : (setDecodeModeBody value s).RaisesInPlace s := by
  unfold setDecodeModeBody
  split
  · exact raiseNow_raisesInPlace _ s
  · exact writeReg_raisesInPlace _ _ _ s

/-- SET_INTENSITY checks the range before it stores (R128). -/
theorem setIntensityBody_raisesInPlace (value : Int) (s : State) : (setIntensityBody value s).RaisesInPlace s := by
  unfold setIntensityBody
  split
  · exact raiseNow_raisesInPlace _ s
  · exact writeReg_raisesInPlace _ _ _ s

/-- WRITE_CHR_RAW checks the bounds and the range before it writes the digit (R178). -/
theorem writeRaw_raisesInPlace (value index : Int) (s : State) : (writeRaw value index s).RaisesInPlace s := by
  unfold writeRaw
  split
  · exact raiseNow_raisesInPlace _ s
  · split
    · exact raiseNow_raisesInPlace _ s
    · exact writePos_raisesInPlace _ _ s

/-- WRITE_CHR_XLATE checks the bounds and translates before it writes the digit (R176). -/
theorem writeXlate_raisesInPlace (c : Char8) (index : Int) (dot strict : Bool) (s : State) :
    (writeXlate c index dot strict s).RaisesInPlace s := by
  unfold writeXlate
  split
  · exact raiseNow_raisesInPlace _ s
  · split
    · exact raiseNow_raisesInPlace _ s
    · exact writePos_raisesInPlace _ _ s

section Errored

variable {s t : State} (hlog : t.errlog ≠ s.errlog) (hl : t.live)
include hlog hl

/-- A command whose body raises in place leaves, with a new error and no fault, the state before with the error logged
and answered. -/
theorem runCommand_errored {body : State → Flow} {answer : State → Answer} {n : Nat} (hf : (body s).From n s)
    (hb : (body s).RaisesInPlace s) (h : runCommand body answer s = .next t) : ∃ e, t = s.errored e := by
  obtain ⟨-, ⟨m, hm, rfl⟩ | ht⟩ := runCommand_cases h
  · exact absurd (hf.go m hm).errlog hlog
  · exact (hb t ht).resolve_left (by simp [hl])

/-- The only error of a register-write row is TransportError, which faults the block (R234). -/
theorem row_not_errored {i : Instr} (hc : i.isCommand = false) : exec i s ≠ .next t := by
  intro h
  obtain ⟨-, a, v, ⟨-, rfl⟩ | ⟨-, rfl⟩⟩ := write_cases hc h
  · exact hlog rfl
  · cases hl

end Errored

/-- Settles O25: every command but WRITE_STR and CLEAR makes all its checks before its first effect, so that it raises
in place; a register-write row has no check that could raise. -/
theorem singleCommandErrorsLeaveState : Obligations.SingleCommandErrorsLeaveState := by
  intro i s t hstr hclear h hlog hl
  cases i with
  | init => exact runCommand_errored hlog hl (initBody_from s) (initBody_raisesInPlace s) h
  | on => exact runCommand_errored hlog hl (writePower_from rfl .on s) (writePower_raisesInPlace _ .on s) h
  | off => exact runCommand_errored hlog hl (writePower_from rfl .off s) (writePower_raisesInPlace _ .off s) h
  | getDecodeMode | getIntensity | getMirror =>
    exact runCommand_errored hlog hl (body := Flow.go) (go_from s) (go_raisesInPlace s s) h
  | setDecodeMode v =>
    exact runCommand_errored hlog hl (setDecodeModeBody_from v s) (setDecodeModeBody_raisesInPlace v s) h
  | setIntensity v =>
    exact runCommand_errored hlog hl (setIntensityBody_from v s) (setIntensityBody_raisesInPlace v s) h
  | writeChrRaw v n => exact runCommand_errored hlog hl (writeRaw_from v n s) (writeRaw_raisesInPlace v n s) h
  | writeChrXlate c n d st =>
    exact runCommand_errored hlog hl (writeXlate_from c n d st s) (writeXlate_raisesInPlace c n d st s) h
  | writeStr cs n st => exact absurd rfl (hstr cs n st)
  | clear n l => exact absurd rfl (hclear n l)
  | _ => exact absurd h (row_not_errored hlog hl rfl)

end Sys2Proof.Machine
end

section
/-! SUPPORT. INIT on any contents of the digit buffer (spec/70_reset_and_hazards.md R264; 41_configuration.md R121). -/

namespace Sys2Proof.Machine

open Sys2Proof

/-- INIT clears every physical position: each is the place of some logical digit. -/
theorem bufAt_initialized {s : State} (hw : s.cfg.wf = true) (p : Pos) : s.initialized.bufAt p = 0x00#8 := by
  have hlog := logicalAt_initialized hw (phys s.mirror p)
  rwa [State.logicalAt, phys_phys] at hlog

/-- Settles O31: INIT ends in `State.initialized`, whose trace gains the transactions of R121 and whose buffer is clear. -/
theorem initRunsItsSequence : Obligations.InitRunsItsSequence := fun _ hl hw h =>
  ⟨_, exec_init_ok hl hw h, initOrder_length hw, bufAt_initialized hw⟩

end Sys2Proof.Machine
end

section
/-! SUPPORT. Construction (spec/70_reset_and_hazards.md R260): its outcome by the ranges of its operands, and the invariant of
what it builds. -/

namespace Sys2Proof.Machine

open Sys2Proof

theorem construct_of_dm0_outOfRange {dm0 : Int} (h : dm0 < 0 ∨ 255 < dm0) (cfg : Config) (int0 : Int) (m : Bool)
    (contents : Memory) : State.construct cfg dm0 int0 m contents = .raised (.valueRange dm0) := by
  simp only [State.construct, checkByte_eq_none h]

theorem construct_of_int0_outOfRange {int0 : Int} (h : int0 < 0 ∨ 15 < int0) (cfg : Config) (dm : Byte) (m : Bool)
    (contents : Memory) : State.construct cfg dm.toNat int0 m contents = .raised (.intensityRange int0) := by
  simp only [State.construct, checkByte_toNat, checkIntensity_eq_none h]

theorem construct_toNat (cfg : Config) (dm : Byte) (int : Nibble) (m : Bool) (contents : Memory) :
    State.construct cfg dm.toNat int.toNat m contents = .built (State.fresh cfg dm int m contents) := by
  simp only [State.construct, checkByte_toNat, checkIntensity_toNat]

/-- An integer in the range of a word of `w` bits is the value of one. -/
theorem exists_toNat_eq {w : Nat} {x : Int} (h0 : 0 ≤ x) (hx : x < 2 ^ w) : ∃ v : BitVec w, (v.toNat : Int) = x := by
  obtain ⟨n, rfl⟩ := Int.eq_ofNat_of_zero_le h0
  exact ⟨BitVec.ofNat w n, by rw [BitVec.toNat_ofNat, Nat.mod_eq_of_lt (by exact_mod_cast hx)]⟩

/-- Every instance that a construction builds is a fresh one. -/
theorem construct_eq_built {cfg : Config} {dm0 int0 : Int} {m : Bool} {contents : Memory} {s : State}
    (h : State.construct cfg dm0 int0 m contents = .built s) : ∃ dm int, s = State.fresh cfg dm int m contents := by
  unfold State.construct at h
  split at h
  · cases h
  · split at h
    · cases h
    · cases h
      exact ⟨_, _, rfl⟩

/-- Settles O8: operands in range are the values of a byte and of a nibble, which the fresh instance stores. -/
theorem constructionSetsResetValues : Obligations.ConstructionSetsResetValues := by
  refine fun cfg dm0 int0 m contents => ⟨fun hdm => ?_, fun hdm hint => ?_, fun hdm hint => ?_⟩
  · exact construct_of_dm0_outOfRange (by omega) cfg int0 m contents
  · obtain ⟨dm, rfl⟩ := exists_toNat_eq (w := 8) hdm.1 (by omega)
    exact construct_of_int0_outOfRange (by omega) cfg dm m contents
  · obtain ⟨dm, rfl⟩ := exists_toNat_eq (w := 8) hdm.1 (by omega)
    obtain ⟨int, rfl⟩ := exists_toNat_eq (w := 4) hint.1 (by omega)
    exact ⟨_, construct_toNat cfg dm int m contents, rfl, rfl, rfl, rfl, rfl, rfl, rfl, rfl, rfl, fun _ => rfl⟩

/-- The chip was sent nothing yet, and the phase says so (R27). -/
theorem fresh_shadow (cfg : Config) (dm : Byte) (int : Nibble) (m : Bool) (contents : Memory) :
    (State.fresh cfg dm int m contents).Shadow where
  csIdle := rfl
  digits := nofun
  decodeModeSent := nofun
  intensitySent := nofun
  scanLimitSent := nofun
  displayTestSent := nofun
  powerSent := rfl

theorem fresh_inv {cfg : Config} (hw : cfg.wf = true) (dm : Byte) (int : Nibble) (m : Bool) (contents : Memory) :
    (State.fresh cfg dm int m contents).Inv where
  hostDriven := rfl
  params := hw
  legalTrace := nofun
  errorLog := rfl
  faultedIff := ⟨nofun, nofun⟩
  inProgram := Nat.le_refl 0
  shadow := fun _ => fresh_shadow cfg dm int m contents

/-- Settles O18: what a construction builds is fresh: no transaction, no error and no command list yet. -/
theorem constructionHasTheInvariant : Obligations.ConstructionHasTheInvariant := by
  intro cfg dm0 int0 m contents s hw h
  obtain ⟨dm, int, rfl⟩ := construct_eq_built h
  exact fresh_inv hw dm int m contents

end Sys2Proof.Machine
end

section
/-! SUPPORT. The reset state, and a bare register write: what a step with a waiting write is, and what the write does
(spec/70_reset_and_hazards.md R260; 40_register_protocol.md R100; logs 1 and 8). -/

namespace Sys2Proof.Machine

open Sys2Proof

/-- Settles O9: `State.reset` is by definition the fresh instance of the construction with its own operands, which are in
range. -/
theorem resetIsAConstruction : Obligations.ResetIsAConstruction :=
  construct_toNat Config.default resetDM0 resetINT0 resetMIRROR resetBuf

/-- A live block with a waiting write emits it, whatever the command list holds. -/
theorem step_of_port {s : State} {w : WireWord} (hl : s.live) (hp : s.port = some w) :
    step s = emitWord w { s with port := none } := by
  simp [step, hl, hp]

theorem emitWord_of_instr {w : WireWord} {i : Instr} (hd : decode (.wire w) = .instr i) (s : State) :
    emitWord w s = exec i s := by
  simp only [emitWord, hd]

/-- Settles O11: the waiting write is emitted, and emitting is `exec` of what it decodes to. -/
theorem stepEmitsTheWaitingWrite : Obligations.StepEmitsTheWaitingWrite := by
  intro s w i hl hp hd
  rw [step_of_port hl hp, emitWord_of_instr hd]

/-- A bare write of a live block that the transport takes. -/
theorem runWrite_ok {a v : Byte} {s : State} (hl : s.live) (h : s.answerAt 0 = .ok) :
    runWrite a v s = .next (s.sent a v) := by
  simp [runWrite, hl, writeReg_ok h]

/-- A bare write of a live block that the transport fails. -/
theorem runWrite_fail {a v : Byte} {s : State} (hl : s.live) (h : s.answerAt 0 = .fail) :
    runWrite a v s = .next (s.sendFailed a v) := by
  simp [runWrite, hl, writeReg_fail h]

/-- Settles O57: each row is the bare write of its address, which the transport takes or fails. -/
theorem wireRowsEmitOneTransaction : Obligations.WireRowsEmitOneTransaction := by
  intro s v i a hl hrow
  have hexec : exec i s = runWrite a v s := by
    rcases hrow with ⟨rfl, rfl⟩ | ⟨rfl, rfl⟩ | ⟨rfl, rfl⟩ | ⟨rfl, rfl⟩ | ⟨rfl, rfl⟩ | ⟨rfl, rfl⟩ | ⟨rfl, rfl⟩ |
      ⟨rfl, rfl⟩ | ⟨rfl, rfl⟩ | ⟨rfl, rfl⟩ | ⟨rfl, rfl⟩ | ⟨rfl, rfl⟩ | ⟨rfl, rfl⟩ | ⟨rfl, rfl⟩
    all_goals simp only [exec_wrNoop, exec_wrDigit0, exec_wrDigit1, exec_wrDigit2, exec_wrDigit3, exec_wrDigit4,
      exec_wrDigit5, exec_wrDigit6, exec_wrDigit7, exec_wrDecodeMode, exec_wrIntensity, exec_wrScanLimit,
      exec_wrShutdown, exec_wrDisplayTest]
  rw [hexec]
  exact ⟨runWrite_ok hl, runWrite_fail hl⟩

end Sys2Proof.Machine
end
